-- ==== Sys2Proof/Word.lean ====
section
/-!
DEFINITION. The word types of the two cores (R8, R9 of spec/00_scope.md) and the plainest arithmetic on them.
-/
namespace Sys2Proof

/-- One byte, the smallest unit of RegisterCPU memory (R80). -/
abbrev Byte := BitVec 8

/-- A 16-bit word: StackCPU registers and program words (R8), RegisterCPU `psr` and `mod` (R9). -/
abbrev Word := BitVec 16

/-- A 32-bit double word: RegisterCPU registers and addresses (R9). -/
abbrev DWord := BitVec 32

/-- The bit slice `w[hi:lo]` of a number (R11). -/
def bits (w hi lo : Nat) : Nat := w / 2 ^ lo % 2 ^ (hi + 1 - lo)

end Sys2Proof
end

