-- ==== Sys2Proof/Config.lean ====
section
/-!
DEFINITION. What an implementation fixes: the named parameters of R10 (spec/00_scope.md) and the fixed addresses of
R76 (spec/20_memory.md); the free values. The spec leaves no value of the instruction set undefined; what it leaves open is
the content of memory that nothing has written (R451).
-/
namespace Sys2Proof

/-- The RegisterCPU mnemonics, one line for each format 0 to 7 (R137). -/
inductive RegMnemonic where
  | beq | bne | bcs | bcc | bhi | bls | bgt | ble | bfs | bfc | blo | bhs | blt | bge | br | bn
  | bsr | ret | cxp | rxp | rett | reti | save | restore | enter | exitI | nop | wait | dia | flag | svc | bpt
  | addq | cmpq | spr | scond | acb | movq | lpr
  | cxpd | bicpsr | jump | bispsr | adjsp | jsr | caseI
  | add | cmp | bic | addc | mov | orI | sub | addr | andI | subc | tbit | xorI
  | movs | cmps | setcfg | skps
  | rot | ash | cbit | cbiti | lsh | sbit | sbiti | neg | notI | subp | absI | com | ibit | addp
  | movm | cmpm | inss | exts | movxbw | movzbw | movzid | movxid | mul | mei | dei | quo | rem | modI | divI
deriving DecidableEq, Repr

/-- The parameters of R10 that a program can observe; State holds one such record, so that a statement about every state
quantifies over them (DESIGN CHOICE, log 7). -/
structure Params where
  /-- `XTRI_IE_MASK`: the bit of `xtri` that enables interrupts (D13). -/
  ieMask : BitVec 5
  /-- `STACK_BOOT_PC`: StackCPU `pc` after reset (D26). -/
  stackBoot : Word
  /-- `REG_BOOT_PC`: RegisterCPU `pc` after reset (D41). -/
  regBoot : DWord
  /-- `REGCPU_UNIMPLEMENTED`: the mnemonics that end in `Fatal(NotImplemented)` (D40, log 8). -/
  unimplemented : List RegMnemonic
deriving DecidableEq, Repr

/-- The defaults of R10. -/
def Config.defaults : Params :=
  { ieMask := 0x10#5, stackBoot := 0x1000#16, regBoot := 0#32,
    unimplemented := [.addp, .subp, .movm, .cmpm, .inss, .exts, .mei, .dei] }

/-- `STACK_INT_VECTOR`, fixed by the source (R10, R76). -/
def Config.stackIntVector : Word := 0x0020#16

/-- `psr` bits that trap entry keeps: all but `S`, `U`, `T`, `P` (R421). -/
def Config.trapPsrKeep : Word := 0xF8FD#16

/-! ## Free values: what memory holds that nothing has written (R451; log 5) -/

/-- A program word that nothing has written. -/
opaque Config.progFree : Nat → Word

/-- A word of the data-stack space that nothing has written. -/
opaque Config.dsFree : Nat → Word

/-- A word of the return-stack space that nothing has written. -/
opaque Config.rsFree : Nat → Word

/-- A byte of RegisterCPU memory that nothing has written. -/
opaque Config.memFree : Nat → Byte

end Sys2Proof
end

