-- ==== Sys2Proof/Syntax.lean ====
section
/-!
DEFINITION. The instructions of both cores as data: one constructor of `Instr` per row of spec/opcode_table.json
(spec/30_encoding.md). Every field an encoding has stands in the constructor, also the fields a form ignores (R114), so
that encoding loses no bit. Meanings stand in Machine/.
-/
namespace Sys2Proof

/-! ## StackCPU operands -/

/-- ALU function codes 0 to 7 (R105). -/
inductive AluOp where
  | t | and | sub | or | add | xor | suby | y
deriving DecidableEq, Repr

/-- Operand-2 select codes 0 to 3 (R106). -/
inductive YSrc where
  | n | nc | md | sr
deriving DecidableEq, Repr

/-- Shift codes 0 to 3 (R107). -/
inductive ShiftCode where
  | none | sign | left | right
deriving DecidableEq, Repr

/-- The option fields of an ALU-class word (R104). -/
structure AluOpts where
  ysrc : YSrc
  tn   : Bool
  ret  : Bool
  sa   : Bool
  step : Bool
  sh32 : Bool
  sh   : ShiftCode
deriving DecidableEq, Repr

/-! ## RegisterCPU operands -/

/-- The size field `i` (R131); `undef` is the code 10, undefined in formats 5 to 7 and impossible in formats 2 to 4. -/
inductive Size where
  | b | w | undef | d
deriving DecidableEq, Repr

/-- A displacement with the length it was written in (R242); the forms are not canonical (R245). -/
inductive Disp where
  | d1 (v : BitVec 7)
  | d2 (v : BitVec 14)
  | d4 (v : BitVec 30)
deriving DecidableEq, Repr

/-- Base registers of gen modes 16, 17, 18 (R252). -/
inductive MemBase where
  | fp | sp | sb
deriving DecidableEq, Repr

/-- Base registers of gen modes 24 to 27 (R265). -/
inductive SpaceBase where
  | fp | sp | sb | pc
deriving DecidableEq, Repr

/-- The inline bytes of an immediate operand (R261). -/
inductive Imm where
  | b (v : Byte)
  | w (v : Word)
  | d (v : DWord)
deriving DecidableEq, Repr

/-- A general operand: gen code and extension (R252). -/
inductive Gen where
  /-- Modes 0 to 7. -/
  | reg (r : Fin 8)
  /-- Modes 8 to 15. -/
  | rel (r : Fin 8) (d : Disp)
  /-- Modes 16 to 18. -/
  | memRel (b : MemBase) (d1 d2 : Disp)
  /-- Mode 19. -/
  | reserved
  /-- Mode 20. -/
  | imm (v : Imm)
  /-- Mode 21. -/
  | abs (d : Disp)
  /-- Mode 22. -/
  | ext (d1 d2 : Disp)
  /-- Mode 23. -/
  | tos
  /-- Modes 24 to 27. -/
  | space (b : SpaceBase) (d : Disp)
  /-- Modes 28 to 31. -/
  | scaled (k : Fin 4)
deriving DecidableEq, Repr

/-- The sixteen condition codes, in code order (R281). -/
inductive Cond where
  | eq | ne | cs | cc | hi | ls | gt | le | fs | fc | lo | hs | lt | ge | always | never
deriving DecidableEq, Repr

/-- The byte sequences of the table row `UNDEFINED.B10` (R133, R137): a byte 0 that selects no format, or a basic
instruction of formats 5, 6, 7 whose opcode is undefined. -/
inductive UndefB10 where
  | byte (b : Byte)
  | fmt5 (w : Word)
  | fmt6 (w : Word)
  | fmt7 (w : Word)
deriving DecidableEq, Repr

/-! ## The instructions -/

/-- One constructor per row of spec/opcode_table.json, in the table's order. -/
inductive Instr where
  -- StackCPU: CALL and branches (R146, R149 to R151)
  | sCall (target : BitVec 15)
  | sIf (addr : BitVec 12)
  | sLoop (addr : BitVec 12)
  | sElse (addr : BitVec 12)
  -- StackCPU: ALU class (R162 to R169)
  | aluT (o : AluOpts)
  | aluAnd (o : AluOpts)
  | aluSub (o : AluOpts)
  | aluOr (o : AluOpts)
  | aluAdd (o : AluOpts)
  | aluXor (o : AluOpts)
  | aluSuby (o : AluOpts)
  | aluY (o : AluOpts)
  -- StackCPU: literal, local, internal (R196 to R205)
  | lfetch (op : AluOp) (tn ret : Bool) (a5 : BitVec 5)
  | ifetch (op : AluOp) (tn ret sa : Bool) (slot : Fin 16)
  | lits (op : AluOp) (tn ret : Bool) (a5 : BitVec 5)
  | litl (op : AluOp) (tn ret : Bool) (a5 : BitVec 5)
  | lstore (op : AluOp) (tn ret : Bool) (a5 : BitVec 5)
  | istore (op : AluOp) (tn ret : Bool) (slot : Fin 16)
  | istoreSa (op : AluOp) (tn ret : Bool) (slot : Fin 16)
  | iswap (op : AluOp) (tn ret sa : Bool) (slot : Fin 16)
  | lliReserved (op : AluOp) (tn ret : Bool) (a5 : BitVec 5)
  -- StackCPU: memory (R232 to R236); one constructor per ios value of the table
  | mfetch0 (op : AluOp) (tn ret : Bool) (lit5 : BitVec 5)
  | mfetch1 (op : AluOp) (tn ret : Bool) (lit5 : BitVec 5)
  | mfetch2 (op : AluOp) (tn ret : Bool) (lit5 : BitVec 5)
  | mfetchx (op : AluOp) (tn ret : Bool) (lit5 : BitVec 5)
  | mstore0 (op : AluOp) (tn ret : Bool) (lit5 : BitVec 5)
  | mstore1 (op : AluOp) (tn ret : Bool) (lit5 : BitVec 5)
  | mstore2 (op : AluOp) (tn ret : Bool) (lit5 : BitVec 5)
  | mstorex (op : AluOp) (tn ret : Bool) (lit5 : BitVec 5)
  -- RegisterCPU format 0 (R280)
  | beq (d : Disp) | bne (d : Disp) | bcs (d : Disp) | bcc (d : Disp)
  | bhi (d : Disp) | bls (d : Disp) | bgt (d : Disp) | ble (d : Disp)
  | bfs (d : Disp) | bfc (d : Disp) | blo (d : Disp) | bhs (d : Disp)
  | blt (d : Disp) | bge (d : Disp) | br (d : Disp) | bn (d : Disp)
  -- RegisterCPU format 1 (R282 to R298)
  | bsr (d : Disp)
  | ret (d : Disp)
  | cxp (d : Disp)
  | rxp (d : Disp)
  | rett (d : Disp)
  | reti
  | save (mask : Byte)
  | restore (mask : Byte)
  | enter (mask : Byte) (d : Disp)
  | exitI (mask : Byte)
  | nop
  | wait
  | dia
  | flag
  | svc
  | bpt
  -- RegisterCPU format 5 (R355 to R360)
  | movs (opts : BitVec 4) (i : Size)
  | cmps (opts : BitVec 4) (i : Size)
  | setcfg (short : BitVec 4) (i : Size)
  | skps (opts : BitVec 4) (i : Size)
  -- RegisterCPU format 6 (R361 to R378)
  | rot (i : Size) (g1 g2 : Gen)
  | ash (i : Size) (g1 g2 : Gen)
  | cbit (i : Size) (g1 g2 : Gen)
  | cbiti (i : Size) (g1 g2 : Gen)
  | lsh (i : Size) (g1 g2 : Gen)
  | sbit (i : Size) (g1 g2 : Gen)
  | sbiti (i : Size) (g1 g2 : Gen)
  | neg (i : Size) (g1 g2 : Gen)
  | notI (i : Size) (g1 g2 : Gen)
  | subp (i : Size) (g1 g2 : Gen)
  | absI (i : Size) (g1 g2 : Gen)
  | com (i : Size) (g1 g2 : Gen)
  | ibit (i : Size) (g1 g2 : Gen)
  | addp (i : Size) (g1 g2 : Gen)
  -- RegisterCPU format 7 (R385 to R401)
  | movm (i : Size) (g1 g2 : Gen)
  | cmpm (i : Size) (g1 g2 : Gen)
  | inss (i : Size) (g1 g2 : Gen)
  | exts (i : Size) (g1 g2 : Gen)
  | movxbw (i : Size) (g1 g2 : Gen)
  | movzbw (i : Size) (g1 g2 : Gen)
  | movzid (i : Size) (g1 g2 : Gen)
  | movxid (i : Size) (g1 g2 : Gen)
  | mul (i : Size) (g1 g2 : Gen)
  | mei (i : Size) (g1 g2 : Gen)
  | dei (i : Size) (g1 g2 : Gen)
  | quo (i : Size) (g1 g2 : Gen)
  | rem (i : Size) (g1 g2 : Gen)
  | modI (i : Size) (g1 g2 : Gen)
  | divI (i : Size) (g1 g2 : Gen)
  -- RegisterCPU: byte 0 with bits 1:0 = 10 that matches no other row (R133)
  | undefinedB10 (u : UndefB10)
  -- RegisterCPU format 3 (R321 to R327)
  | cxpd (i : Size) (g : Gen)
  | bicpsr (i : Size) (g : Gen)
  | jump (i : Size) (g : Gen)
  | bispsr (i : Size) (g : Gen)
  | adjsp (i : Size) (g : Gen)
  | jsr (i : Size) (g : Gen)
  | caseI (i : Size) (g : Gen)
  | undefinedF3 (gen : Fin 32) (op : Fin 16) (i : Size)
  -- RegisterCPU format 2 (R311 to R318)
  | addq (quick : BitVec 4) (i : Size) (g : Gen)
  | cmpq (quick : BitVec 4) (i : Size) (g : Gen)
  | spr (procreg : BitVec 4) (i : Size) (g : Gen)
  | scond (c : Cond) (i : Size) (g : Gen)
  | acb (quick : BitVec 4) (i : Size) (g : Gen) (d : Disp)
  | movq (quick : BitVec 4) (i : Size) (g : Gen)
  | lpr (procreg : BitVec 4) (i : Size) (g : Gen)
  -- RegisterCPU format 4 (R336 to R347)
  | add (i : Size) (g1 g2 : Gen)
  | cmp (i : Size) (g1 g2 : Gen)
  | bic (i : Size) (g1 g2 : Gen)
  | addc (i : Size) (g1 g2 : Gen)
  | mov (i : Size) (g1 g2 : Gen)
  | orI (i : Size) (g1 g2 : Gen)
  | sub (i : Size) (g1 g2 : Gen)
  | addr (i : Size) (g1 g2 : Gen)
  | andI (i : Size) (g1 g2 : Gen)
  | subc (i : Size) (g1 g2 : Gen)
  | tbit (i : Size) (g1 g2 : Gen)
  | xorI (i : Size) (g1 g2 : Gen)
deriving DecidableEq, Repr

end Sys2Proof
end

