-- ==== Sys2Proof/WellFormed.lean ====
section
/-!
DEFINITION. Which instructions have an encoding (spec/30_encoding.md). Most fields admit every value of their type; the
checks are the size code of formats 2 to 4 (R131) and of the unimplemented mnemonics (log 21), the width of an immediate
(R261), and the patterns of the two `UNDEFINED` rows (R133, R137).
-/
namespace Sys2Proof

/-- An immediate has the width its size code gives; for the undefined code the decoder skips four bytes (log 15). -/
def wfImm : Size → Imm → Bool
  | .b, .b _ => true
  | .w, .w _ => true
  | .d, .d _ => true
  | .undef, .d _ => true
  | _, _ => false

/-- A general operand of size `n`. -/
def wfGen (n : Size) : Gen → Bool
  | .imm v => wfImm n v
  | _ => true

/-- Two operands and a size of formats 6 and 7. -/
def wfGens (n1 n2 : Size) (g1 g2 : Gen) : Bool := wfGen n1 g1 && wfGen n2 g2

/-- Size code 10 does not reach formats 2, 3, 4 (R131). -/
def wfSize (i : Size) : Bool := i != .undef

/-- Formats 2 and 3: one general operand. -/
def wfOne (i : Size) (g : Gen) : Bool := wfSize i && wfGen i g

/-- Format 4: two general operands. -/
def wfTwo (i : Size) (g1 g2 : Gen) : Bool := wfSize i && wfGens i i g1 g2

/-- The patterns of the row `UNDEFINED.B10` (R122, R128 to R130). -/
def wfUndef : UndefB10 → Bool
  | .byte b => bits b.toNat 2 0 == 6 && b != 0x0E#8 && b != 0x4E#8 && b != 0xCE#8
  | .fmt5 w => bits w.toNat 15 11 != 0 || bits w.toNat 6 6 != 0 || 4 ≤ bits w.toNat 5 2
  | .fmt6 w => bits w.toNat 5 2 == 4 || bits w.toNat 5 2 == 10 ||
      bits w.toNat 1 0 == 2 && (bits w.toNat 5 2 == 11 || bits w.toNat 5 2 == 15)
  | .fmt7 w => bits w.toNat 5 2 == 10 || bits w.toNat 1 0 == 2 &&
      (bits w.toNat 5 2 < 4 || bits w.toNat 5 2 == 9 || bits w.toNat 5 2 == 11)

/-- The instruction has an encoding. -/
def wellFormed : Instr → Bool
  | .sCall _ | .sIf _ | .sLoop _ | .sElse _ => true
  | .aluT _ | .aluAnd _ | .aluSub _ | .aluOr _ | .aluAdd _ | .aluXor _ | .aluSuby _ | .aluY _ => true
  | .lfetch _ _ _ _ | .ifetch _ _ _ _ _ | .lits _ _ _ _ | .litl _ _ _ _ => true
  | .lstore _ _ _ _ | .istore _ _ _ _ | .istoreSa _ _ _ _ | .iswap _ _ _ _ _ | .lliReserved _ _ _ _ => true
  | .mfetch0 _ _ _ _ | .mfetch1 _ _ _ _ | .mfetch2 _ _ _ _ | .mfetchx _ _ _ _ => true
  | .mstore0 _ _ _ _ | .mstore1 _ _ _ _ | .mstore2 _ _ _ _ | .mstorex _ _ _ _ => true
  | .beq _ | .bne _ | .bcs _ | .bcc _ | .bhi _ | .bls _ | .bgt _ | .ble _ => true
  | .bfs _ | .bfc _ | .blo _ | .bhs _ | .blt _ | .bge _ | .br _ | .bn _ => true
  | .bsr _ | .ret _ | .cxp _ | .rxp _ | .rett _ | .reti | .save _ | .restore _ => true
  | .enter _ _ | .exitI _ | .nop | .wait | .dia | .flag | .svc | .bpt => true
  | .movs _ _ | .cmps _ _ | .setcfg _ _ | .skps _ _ => true
  | .rot i g1 g2 | .ash i g1 g2 | .lsh i g1 g2 => wfGens .b i g1 g2
  | .cbit i g1 g2 | .cbiti i g1 g2 | .sbit i g1 g2 | .sbiti i g1 g2 | .ibit i g1 g2 => wfGens i i g1 g2
  | .neg i g1 g2 | .notI i g1 g2 | .absI i g1 g2 | .com i g1 g2 => wfGens i i g1 g2
  | .subp i g1 g2 | .addp i g1 g2 | .movm i g1 g2 | .cmpm i g1 g2 | .inss i g1 g2 | .exts i g1 g2 => wfTwo i g1 g2
  | .movxbw _ g1 g2 | .movzbw _ g1 g2 => wfGens .b .w g1 g2
  | .movzid i g1 g2 | .movxid i g1 g2 => wfGens i .d g1 g2
  | .mei i g1 g2 | .dei i g1 g2 => wfTwo i g1 g2
  | .mul i g1 g2 | .quo i g1 g2 => wfGens i i g1 g2
  | .rem i g1 g2 | .modI i g1 g2 | .divI i g1 g2 => wfGens i i g1 g2
  | .undefinedB10 u => wfUndef u
  | .cxpd i g | .bicpsr i g | .jump i g | .bispsr i g | .adjsp i g | .jsr i g | .caseI i g => wfOne i g
  | .undefinedF3 _ op i => wfSize i && (op.val == 8 || op.val % 2 == 1)
  | .addq _ i g | .cmpq _ i g | .spr _ i g | .scond _ i g | .acb _ i g _ | .movq _ i g | .lpr _ i g => wfOne i g
  | .add i g1 g2 | .cmp i g1 g2 | .bic i g1 g2 | .addc i g1 g2 | .mov i g1 g2 | .orI i g1 g2 => wfTwo i g1 g2
  | .sub i g1 g2 | .addr i g1 g2 | .andI i g1 g2 | .subc i g1 g2 | .tbit i g1 g2 | .xorI i g1 g2 => wfTwo i g1 g2

end Sys2Proof
end

