-- ==== Sys2Proof/Decode.lean ====
section
/-!
DEFINITION. Decoding and encoding of both cores, from the tables of spec/30_encoding.md (R100 to R137) and the displacement
rules R242 to R245 of spec/44_regcpu_gen_disp.md. Decoding is total; a byte list that ends inside an instruction is
rejected by name.
-/
namespace Sys2Proof

/-- Why a byte list has no instruction: it ends too early. Safe: no meaning is given. -/
inductive DecodeError where
  | truncated
deriving DecidableEq, Repr

/-- An encoded instruction: one StackCPU word (R100), or RegisterCPU bytes in ascending address order (R120). -/
inductive Code where
  | word (w : Word)
  | bytes (bs : List Byte)
deriving DecidableEq, Repr

/-! ## Field codes -/

/-- R105. -/
def AluOp.code : AluOp → Nat
  | .t => 0 | .and => 1 | .sub => 2 | .or => 3 | .add => 4 | .xor => 5 | .suby => 6 | .y => 7

/-- R105. -/
def AluOp.ofCode : Nat → AluOp
  | 0 => .t | 1 => .and | 2 => .sub | 3 => .or | 4 => .add | 5 => .xor | 6 => .suby | _ => .y

/-- R106. -/
def YSrc.code : YSrc → Nat
  | .n => 0 | .nc => 1 | .md => 2 | .sr => 3

/-- R106. -/
def YSrc.ofCode : Nat → YSrc
  | 0 => .n | 1 => .nc | 2 => .md | _ => .sr

/-- R107. -/
def ShiftCode.code : ShiftCode → Nat
  | .none => 0 | .sign => 1 | .left => 2 | .right => 3

/-- R107. -/
def ShiftCode.ofCode : Nat → ShiftCode
  | 0 => .none | 1 => .sign | 2 => .left | _ => .right

/-- R131. -/
def Size.code : Size → Nat
  | .b => 0 | .w => 1 | .undef => 2 | .d => 3

/-- R131. -/
def Size.ofCode : Nat → Size
  | 0 => .b | 1 => .w | 2 => .undef | _ => .d

/-- The operand width in bits (R131); the undefined code never reaches an operation. -/
def Size.bits : Size → Nat
  | .b => 8
  | .w => 16
  | .undef => 32
  | .d => 32

/-- The operand width in bytes (R131). -/
def Size.bytes : Size → Nat
  | .b => 1
  | .w => 2
  | .undef => 4
  | .d => 4

/-- R281. -/
def Cond.code : Cond → Nat
  | .eq => 0 | .ne => 1 | .cs => 2 | .cc => 3 | .hi => 4 | .ls => 5 | .gt => 6 | .le => 7
  | .fs => 8 | .fc => 9 | .lo => 10 | .hs => 11 | .lt => 12 | .ge => 13 | .always => 14 | .never => 15

/-- R281. -/
def Cond.ofCode : Nat → Cond
  | 0 => .eq | 1 => .ne | 2 => .cs | 3 => .cc | 4 => .hi | 5 => .ls | 6 => .gt | 7 => .le
  | 8 => .fs | 9 => .fc | 10 => .lo | 11 => .hs | 12 => .lt | 13 => .ge | 14 => .always | _ => .never

/-- The 5-bit gen code (R134, R252). -/
def Gen.code : Gen → Nat
  | .reg r => r.val
  | .rel r _ => 8 + r.val
  | .memRel .fp _ _ => 16
  | .memRel .sp _ _ => 17
  | .memRel .sb _ _ => 18
  | .reserved => 19
  | .imm _ => 20
  | .abs _ => 21
  | .ext _ _ => 22
  | .tos => 23
  | .space .fp _ => 24
  | .space .sp _ => 25
  | .space .sb _ => 26
  | .space .pc _ => 27
  | .scaled k => 28 + k.val

/-! ## Displacements, immediates, general operands -/

/-- The value of a displacement, sign-extended to 32 bits (R243). -/
def Disp.value : Disp → DWord
  | .d1 v => v.signExtend 32
  | .d2 v => v.signExtend 32
  | .d4 v => v.signExtend 32

/-- The number of bytes of a displacement (R244). -/
def Disp.len : Disp → Nat
  | .d1 _ => 1
  | .d2 _ => 2
  | .d4 _ => 4

/-- `disp_size` (R244): the length that the first byte of a displacement announces. -/
def dispSize (b0 : Byte) : Nat := if b0.toNat < 128 then 1 else if b0.toNat < 192 then 2 else 4

/-- The 16-bit value `hi:lo` as two bytes, most significant first (R83). -/
def bytesBE2 (v : Nat) : List Byte := [BitVec.ofNat 8 (v / 256), BitVec.ofNat 8 v]

/-- A 32-bit value as four bytes, most significant first (R83). -/
def bytesBE4 (v : Nat) : List Byte :=
  [BitVec.ofNat 8 (v / 16777216), BitVec.ofNat 8 (v / 65536), BitVec.ofNat 8 (v / 256), BitVec.ofNat 8 v]

/-- `Enc1`, `Enc2`, `Enc4` (R245). -/
def Disp.bytes : Disp → List Byte
  | .d1 v => [BitVec.ofNat 8 v.toNat]
  | .d2 v => bytesBE2 (0x8000 + v.toNat)
  | .d4 v => bytesBE4 (0xC0000000 + v.toNat)

/-- `Disp` (R243): one displacement from the front of a byte list. -/
def decodeDisp : List Byte → Except DecodeError (Disp × List Byte)
  | [] => .error .truncated
  | b0 :: rest =>
    if b0.toNat < 128 then .ok (.d1 (BitVec.ofNat 7 b0.toNat), rest)
    else if b0.toNat < 192 then
      match rest with
      | b1 :: rest => .ok (.d2 (BitVec.ofNat 14 (b0.toNat * 256 + b1.toNat)), rest)
      | _ => .error .truncated
    else
      match rest with
      | b1 :: b2 :: b3 :: rest =>
        .ok (.d4 (BitVec.ofNat 30 (b0.toNat * 16777216 + b1.toNat * 65536 + b2.toNat * 256 + b3.toNat)), rest)
      | _ => .error .truncated

/-- The bytes of an immediate, most significant first (R261). -/
def Imm.bytes : Imm → List Byte
  | .b v => [v]
  | .w v => bytesBE2 v.toNat
  | .d v => bytesBE4 v.toNat

/-- The value of an immediate, zero-extended (R261). -/
def Imm.value : Imm → DWord
  | .b v => v.setWidth 32
  | .w v => v.setWidth 32
  | .d v => v

/-- The number of bytes of an immediate (R261). -/
def Imm.len : Imm → Nat
  | .b _ => 1
  | .w _ => 2
  | .d _ => 4

/-- An immediate of size `n` (R261); the undefined size code skips four bytes (log 15). -/
def decodeImm : Size → List Byte → Except DecodeError (Imm × List Byte)
  | .b, v :: rest => .ok (.b v, rest)
  | .w, v1 :: v0 :: rest => .ok (.w (BitVec.ofNat 16 (v1.toNat * 256 + v0.toNat)), rest)
  | .undef, v3 :: v2 :: v1 :: v0 :: rest =>
    .ok (.d (BitVec.ofNat 32 (v3.toNat * 16777216 + v2.toNat * 65536 + v1.toNat * 256 + v0.toNat)), rest)
  | .d, v3 :: v2 :: v1 :: v0 :: rest =>
    .ok (.d (BitVec.ofNat 32 (v3.toNat * 16777216 + v2.toNat * 65536 + v1.toNat * 256 + v0.toNat)), rest)
  | _, _ => .error .truncated

/-- The extension bytes of a general operand (R252). -/
def Gen.bytes : Gen → List Byte
  | .rel _ d => d.bytes
  | .memRel _ d1 d2 => d1.bytes ++ d2.bytes
  | .imm v => v.bytes
  | .abs d => d.bytes
  | .ext d1 d2 => d1.bytes ++ d2.bytes
  | .space _ d => d.bytes
  | .reg _ => []
  | .reserved => []
  | .tos => []
  | .scaled _ => []

/-- `gen_size` (R268) for the modes that have one: the number of extension bytes. -/
def Gen.len : Gen → Nat
  | .rel _ d => d.len
  | .memRel _ d1 d2 => d1.len + d2.len
  | .imm v => v.len
  | .abs d => d.len
  | .ext d1 d2 => d1.len + d2.len
  | .space _ d => d.len
  | .reg _ => 0
  | .reserved => 0
  | .tos => 0
  | .scaled _ => 0

/-- One displacement, given to a mode that takes one. -/
def decodeOne (mk : Disp → Gen) (bs : List Byte) : Except DecodeError (Gen × List Byte) :=
  match decodeDisp bs with
  | .ok (d, rest) => .ok (mk d, rest)
  | .error e => .error e

/-- Two displacements, given to a mode that takes two, the first one first in the stream (R255). -/
def decodeTwo (mk : Disp → Disp → Gen) (bs : List Byte) : Except DecodeError (Gen × List Byte) :=
  match decodeDisp bs with
  | .ok (d1, rest) => decodeOne (mk d1) rest
  | .error e => .error e

/-- A general operand of size `n` with gen code `g` (R252), consuming its extension. Modes 19 and 28 to 31 consume
nothing (R260, R266). -/
def decodeGen (g : Nat) (n : Size) (bs : List Byte) : Except DecodeError (Gen × List Byte) :=
  if g < 8 then .ok (.reg (Fin.ofNat 8 g), bs)
  else if g < 16 then decodeOne (.rel (Fin.ofNat 8 (g - 8))) bs
  else match g with
    | 16 => decodeTwo (.memRel .fp) bs
    | 17 => decodeTwo (.memRel .sp) bs
    | 18 => decodeTwo (.memRel .sb) bs
    | 19 => .ok (.reserved, bs)
    | 20 =>
      match decodeImm n bs with
      | .ok (v, rest) => .ok (.imm v, rest)
      | .error e => .error e
    | 21 => decodeOne .abs bs
    | 22 => decodeTwo .ext bs
    | 23 => .ok (.tos, bs)
    | 24 => decodeOne (.space .fp) bs
    | 25 => decodeOne (.space .sp) bs
    | 26 => decodeOne (.space .sb) bs
    | 27 => decodeOne (.space .pc) bs
    | _ => .ok (.scaled (Fin.ofNat 4 (g - 28)), bs)

/-! ## StackCPU words -/

/-- The option bits of an ALU word (R104). -/
def AluOpts.code (o : AluOpts) : Nat :=
  o.ysrc.code * 128 + o.tn.toNat * 64 + o.ret.toNat * 32 + o.sa.toNat * 16 + o.step.toNat * 8 + o.sh32.toNat * 4 + o.sh.code

/-- One bit of a word as a boolean. -/
def flagBit (w k : Nat) : Bool := bits w k k == 1

/-- The option bits of an ALU word (R104). -/
def AluOpts.ofCode (w : Nat) : AluOpts :=
  { ysrc := YSrc.ofCode (bits w 8 7), tn := flagBit w 6, ret := flagBit w 5, sa := flagBit w 4, step := flagBit w 3,
    sh32 := flagBit w 2, sh := ShiftCode.ofCode (bits w 1 0) }

/-- An ALU-class word (R104). -/
def aluWord (op : AluOp) (o : AluOpts) : Code := .word (BitVec.ofNat 16 (0x8000 + op.code * 512 + o.code))

/-- A word of classes 1100 to 1111 (R108, R110): class, function, ios, tn, return bit, low five bits. -/
def lliWord (cls ios : Nat) (op : AluOp) (tn ret : Bool) (low : Nat) : Code :=
  .word (BitVec.ofNat 16 (cls * 4096 + op.code * 512 + ios * 128 + tn.toNat * 64 + ret.toNat * 32 + low))

/-- An ALU-class word, by its function (R113). -/
def decodeAlu (w : Nat) : Instr :=
  match AluOp.ofCode (bits w 11 9) with
  | .t => .aluT (AluOpts.ofCode w)
  | .and => .aluAnd (AluOpts.ofCode w)
  | .sub => .aluSub (AluOpts.ofCode w)
  | .or => .aluOr (AluOpts.ofCode w)
  | .add => .aluAdd (AluOpts.ofCode w)
  | .xor => .aluXor (AluOpts.ofCode w)
  | .suby => .aluSuby (AluOpts.ofCode w)
  | .y => .aluY (AluOpts.ofCode w)

/-- Classes 1100 to 1111, by class and ios (R109, R110, R113). -/
def decodeLliMem (w : Nat) : Instr :=
  let op := AluOp.ofCode (bits w 11 9)
  let tn := flagBit w 6
  let ret := flagBit w 5
  let low := BitVec.ofNat 5 w
  let slot := Fin.ofNat 16 w
  match bits w 13 12, bits w 8 7 with
  | 0, 0 => .lfetch op tn ret low
  | 0, 1 => .ifetch op tn ret (flagBit w 4) slot
  | 0, 2 => .lits op tn ret low
  | 0, _ => .litl op tn ret low
  | 1, 0 => .lstore op tn ret low
  | 1, 1 => if flagBit w 4 then .istoreSa op tn ret slot else .istore op tn ret slot
  | 1, 2 => .iswap op tn ret (flagBit w 4) slot
  | 1, _ => .lliReserved op tn ret low
  | 2, 0 => .mfetch0 op tn ret low
  | 2, 1 => .mfetch1 op tn ret low
  | 2, 2 => .mfetch2 op tn ret low
  | 2, _ => .mfetchx op tn ret low
  | _, 0 => .mstore0 op tn ret low
  | _, 1 => .mstore1 op tn ret low
  | _, 2 => .mstore2 op tn ret low
  | _, _ => .mstorex op tn ret low

/-- Every StackCPU word is one instruction (R101, R113). -/
def decodeWord (ir : Word) : Instr :=
  let w := ir.toNat
  match bits w 15 12 with
  | 8 => decodeAlu w
  | 9 => .sIf (BitVec.ofNat 12 w)
  | 10 => .sLoop (BitVec.ofNat 12 w)
  | 11 => .sElse (BitVec.ofNat 12 w)
  | 12 | 13 | 14 | 15 => decodeLliMem w
  | _ => .sCall (BitVec.ofNat 15 w)

/-! ## RegisterCPU byte sequences -/

/-- An instruction whose only trailing part is a displacement. -/
def withDisp (mk : Disp → Instr) (bs : List Byte) : Except DecodeError (Instr × List Byte) :=
  match decodeDisp bs with
  | .ok (d, rest) => .ok (mk d, rest)
  | .error e => .error e

/-- An instruction whose only trailing part is a register mask (R289). -/
def withMask (mk : Byte → Instr) : List Byte → Except DecodeError (Instr × List Byte)
  | m :: rest => .ok (mk m, rest)
  | [] => .error .truncated

/-- An instruction with one general operand. -/
def withGen (mk : Gen → Instr) (g : Nat) (n : Size) (bs : List Byte) : Except DecodeError (Instr × List Byte) :=
  match decodeGen g n bs with
  | .ok (x, rest) => .ok (mk x, rest)
  | .error e => .error e

/-- An instruction with two general operands, the first one's extension first (R120). -/
def withGens (mk : Gen → Gen → Instr) (g1 : Nat) (n1 : Size) (g2 : Nat) (n2 : Size) (bs : List Byte) :
    Except DecodeError (Instr × List Byte) :=
  match decodeGen g1 n1 bs with
  | .ok (x1, rest) => withGen (mk x1) g2 n2 rest
  | .error e => .error e

/-- Format 0 (R123). -/
def decodeF0 (cond : Nat) : List Byte → Except DecodeError (Instr × List Byte) :=
  match Cond.ofCode cond with
  | .eq => withDisp .beq
  | .ne => withDisp .bne
  | .cs => withDisp .bcs
  | .cc => withDisp .bcc
  | .hi => withDisp .bhi
  | .ls => withDisp .bls
  | .gt => withDisp .bgt
  | .le => withDisp .ble
  | .fs => withDisp .bfs
  | .fc => withDisp .bfc
  | .lo => withDisp .blo
  | .hs => withDisp .bhs
  | .lt => withDisp .blt
  | .ge => withDisp .bge
  | .always => withDisp .br
  | .never => withDisp .bn

/-- `ENTER`: the mask comes before the displacement (R120, R291). -/
def decodeEnter : List Byte → Except DecodeError (Instr × List Byte)
  | m :: rest => withDisp (.enter m) rest
  | [] => .error .truncated

/-- Format 1 (R124). -/
def decodeF1 (op : Nat) (bs : List Byte) : Except DecodeError (Instr × List Byte) :=
  match op with
  | 0 => withDisp .bsr bs
  | 1 => withDisp .ret bs
  | 2 => withDisp .cxp bs
  | 3 => withDisp .rxp bs
  | 4 => withDisp .rett bs
  | 5 => .ok (.reti, bs)
  | 6 => withMask .save bs
  | 7 => withMask .restore bs
  | 8 => decodeEnter bs
  | 9 => withMask .exitI bs
  | 10 => .ok (.nop, bs)
  | 11 => .ok (.wait, bs)
  | 12 => .ok (.dia, bs)
  | 13 => .ok (.flag, bs)
  | 14 => .ok (.svc, bs)
  | _ => .ok (.bpt, bs)

/-- `ACB`: the displacement follows the operand's extension (R315). -/
def decodeAcb (q : BitVec 4) (i : Size) (g : Nat) (bs : List Byte) : Except DecodeError (Instr × List Byte) :=
  match decodeGen g i bs with
  | .ok (x, rest) => withDisp (.acb q i x) rest
  | .error e => .error e

/-- Format 2 on the field word (R125). -/
def decodeF2 (w : Nat) (bs : List Byte) : Except DecodeError (Instr × List Byte) :=
  let i := Size.ofCode (bits w 1 0)
  let g := bits w 15 11
  let sh := BitVec.ofNat 4 (bits w 10 7)
  match bits w 6 4 with
  | 0 => withGen (.addq sh i) g i bs
  | 1 => withGen (.cmpq sh i) g i bs
  | 2 => withGen (.spr sh i) g i bs
  | 3 => withGen (.scond (Cond.ofCode (bits w 10 7)) i) g i bs
  | 4 => decodeAcb sh i g bs
  | 5 => withGen (.movq sh i) g i bs
  | _ => withGen (.lpr sh i) g i bs

/-- Format 3 on the field word (R126). -/
def decodeF3 (w : Nat) (bs : List Byte) : Except DecodeError (Instr × List Byte) :=
  let i := Size.ofCode (bits w 1 0)
  let g := bits w 15 11
  match bits w 10 7 with
  | 0 => withGen (.cxpd i) g i bs
  | 2 => withGen (.bicpsr i) g i bs
  | 4 => withGen (.jump i) g i bs
  | 6 => withGen (.bispsr i) g i bs
  | 10 => withGen (.adjsp i) g i bs
  | 12 => withGen (.jsr i) g i bs
  | 14 => withGen (.caseI i) g i bs
  | op => .ok (.undefinedF3 (Fin.ofNat 32 g) (Fin.ofNat 16 op) i, bs)

/-- Format 4 on the field word (R127). -/
def decodeF4 (w : Nat) (bs : List Byte) : Except DecodeError (Instr × List Byte) :=
  let i := Size.ofCode (bits w 1 0)
  let g1 := bits w 15 11
  let g2 := bits w 10 6
  match bits w 5 2 with
  | 0 => withGens (.add i) g1 i g2 i bs
  | 1 => withGens (.cmp i) g1 i g2 i bs
  | 2 => withGens (.bic i) g1 i g2 i bs
  | 4 => withGens (.addc i) g1 i g2 i bs
  | 5 => withGens (.mov i) g1 i g2 i bs
  | 6 => withGens (.orI i) g1 i g2 i bs
  | 8 => withGens (.sub i) g1 i g2 i bs
  | 9 => withGens (.addr i) g1 i g2 i bs
  | 10 => withGens (.andI i) g1 i g2 i bs
  | 12 => withGens (.subc i) g1 i g2 i bs
  | 13 => withGens (.tbit i) g1 i g2 i bs
  | _ => withGens (.xorI i) g1 i g2 i bs

/-- Format 5 on the field word (R128). -/
def decodeF5 (w : Nat) (bs : List Byte) : Except DecodeError (Instr × List Byte) :=
  let i := Size.ofCode (bits w 1 0)
  let sh := BitVec.ofNat 4 (bits w 10 7)
  if bits w 15 11 = 0 ∧ bits w 6 6 = 0 then
    match bits w 5 2 with
    | 0 => .ok (.movs sh i, bs)
    | 1 => .ok (.cmps sh i, bs)
    | 2 => .ok (.setcfg sh i, bs)
    | 3 => .ok (.skps sh i, bs)
    | _ => .ok (.undefinedB10 (.fmt5 (BitVec.ofNat 16 w)), bs)
  else .ok (.undefinedB10 (.fmt5 (BitVec.ofNat 16 w)), bs)

/-- A mnemonic of `REGCPU_UNIMPLEMENTED`: it has the defined sizes only, so that a field word with the undefined size code
is an undefined encoding like every other of formats 6 and 7 (R133, R361, R385; DEDUCED, log 21). -/
def withSized (mk : Gen → Gen → Instr) (u : UndefB10) (i : Size) (g1 g2 : Nat) (bs : List Byte) :
    Except DecodeError (Instr × List Byte) :=
  if i = .undef then .ok (.undefinedB10 u, bs) else withGens mk g1 i g2 i bs

/-- Format 6 on the field word (R129); shift counts are one byte whatever `i` is (R363). -/
def decodeF6 (w : Nat) (bs : List Byte) : Except DecodeError (Instr × List Byte) :=
  let i := Size.ofCode (bits w 1 0)
  let g1 := bits w 15 11
  let g2 := bits w 10 6
  match bits w 5 2 with
  | 0 => withGens (.rot i) g1 .b g2 i bs
  | 1 => withGens (.ash i) g1 .b g2 i bs
  | 2 => withGens (.cbit i) g1 i g2 i bs
  | 3 => withGens (.cbiti i) g1 i g2 i bs
  | 5 => withGens (.lsh i) g1 .b g2 i bs
  | 6 => withGens (.sbit i) g1 i g2 i bs
  | 7 => withGens (.sbiti i) g1 i g2 i bs
  | 8 => withGens (.neg i) g1 i g2 i bs
  | 9 => withGens (.notI i) g1 i g2 i bs
  | 11 => withSized (.subp i) (.fmt6 (BitVec.ofNat 16 w)) i g1 g2 bs
  | 12 => withGens (.absI i) g1 i g2 i bs
  | 13 => withGens (.com i) g1 i g2 i bs
  | 14 => withGens (.ibit i) g1 i g2 i bs
  | 15 => withSized (.addp i) (.fmt6 (BitVec.ofNat 16 w)) i g1 g2 bs
  | _ => .ok (.undefinedB10 (.fmt6 (BitVec.ofNat 16 w)), bs)

/-- Format 7 on the field word (R130); the sizes of the extensions are fixed by R390 to R393. -/
def decodeF7 (w : Nat) (bs : List Byte) : Except DecodeError (Instr × List Byte) :=
  let i := Size.ofCode (bits w 1 0)
  let g1 := bits w 15 11
  let g2 := bits w 10 6
  match bits w 5 2 with
  | 0 => withSized (.movm i) (.fmt7 (BitVec.ofNat 16 w)) i g1 g2 bs
  | 1 => withSized (.cmpm i) (.fmt7 (BitVec.ofNat 16 w)) i g1 g2 bs
  | 2 => withSized (.inss i) (.fmt7 (BitVec.ofNat 16 w)) i g1 g2 bs
  | 3 => withSized (.exts i) (.fmt7 (BitVec.ofNat 16 w)) i g1 g2 bs
  | 4 => withGens (.movxbw i) g1 .b g2 .w bs
  | 5 => withGens (.movzbw i) g1 .b g2 .w bs
  | 6 => withGens (.movzid i) g1 i g2 .d bs
  | 7 => withGens (.movxid i) g1 i g2 .d bs
  | 8 => withGens (.mul i) g1 i g2 i bs
  | 9 => withSized (.mei i) (.fmt7 (BitVec.ofNat 16 w)) i g1 g2 bs
  | 11 => withSized (.dei i) (.fmt7 (BitVec.ofNat 16 w)) i g1 g2 bs
  | 12 => withGens (.quo i) g1 i g2 i bs
  | 13 => withGens (.rem i) g1 i g2 i bs
  | 14 => withGens (.modI i) g1 i g2 i bs
  | 15 => withGens (.divI i) g1 i g2 i bs
  | _ => .ok (.undefinedB10 (.fmt7 (BitVec.ofNat 16 w)), bs)

/-- The field word of formats 5, 6, 7: the two bytes after the fixed byte 0 (R121). -/
def withWord (k : Nat → List Byte → Except DecodeError (Instr × List Byte)) :
    List Byte → Except DecodeError (Instr × List Byte)
  | b1 :: b2 :: rest => k (b1.toNat + 256 * b2.toNat) rest
  | _ => .error .truncated

/-- One RegisterCPU instruction from the front of a byte list, with the bytes that follow it (R120); the format by the
tests of R122 in their order. -/
def decodeBytes : List Byte → Except DecodeError (Instr × List Byte)
  | [] => .error .truncated
  | b0 :: rest =>
    let b := b0.toNat
    if bits b 3 0 = 10 then decodeF0 (bits b 7 4) rest
    else if bits b 3 0 = 2 then decodeF1 (bits b 7 4) rest
    else if b = 0x0E then withWord decodeF5 rest
    else if b = 0x4E then withWord decodeF6 rest
    else if b = 0xCE then withWord decodeF7 rest
    else if bits b 1 0 = 2 then .ok (.undefinedB10 (.byte b0), rest)
    else if bits b 3 2 = 3 then
      if bits b 6 4 = 7 then withWord decodeF3 (b0 :: rest) else withWord decodeF2 (b0 :: rest)
    else withWord decodeF4 (b0 :: rest)

/-- The instruction of an encoding. -/
def decode : Code → Except DecodeError Instr
  | .word w => .ok (decodeWord w)
  | .bytes bs =>
    match decodeBytes bs with
    | .ok (i, _) => .ok i
    | .error e => .error e

/-! ## The encoder -/

/-- A field word, low byte first (R121). -/
def wordLE (w : Nat) : List Byte := [BitVec.ofNat 8 w, BitVec.ofNat 8 (w / 256)]

/-- Format 0 (R123). -/
def enc0 (c : Cond) (d : Disp) : Code := .bytes (BitVec.ofNat 8 (c.code * 16 + 10) :: d.bytes)

/-- Format 1 (R124). -/
def enc1 (op : Nat) (tail : List Byte) : Code := .bytes (BitVec.ofNat 8 (op * 16 + 2) :: tail)

/-- Format 2 (R125). -/
def enc2 (op short : Nat) (i : Size) (g : Gen) (tail : List Byte) : Code :=
  .bytes (wordLE (g.code * 2048 + short * 128 + op * 16 + 12 + i.code) ++ (g.bytes ++ tail))

/-- Format 3 (R126). -/
def enc3 (op : Nat) (i : Size) (g : Gen) : Code :=
  .bytes (wordLE (g.code * 2048 + op * 128 + 124 + i.code) ++ g.bytes)

/-- The field word of formats 4, 6, 7 (R127). -/
def gensWord (op : Nat) (i : Size) (g1 g2 : Gen) : Nat := g1.code * 2048 + g2.code * 64 + op * 4 + i.code

/-- Format 4 (R127). -/
def enc4 (op : Nat) (i : Size) (g1 g2 : Gen) : Code := .bytes (wordLE (gensWord op i g1 g2) ++ (g1.bytes ++ g2.bytes))

/-- Format 5 (R128). -/
def enc5 (op : Nat) (short : BitVec 4) (i : Size) : Code :=
  .bytes (0x0E#8 :: wordLE (short.toNat * 128 + op * 4 + i.code))

/-- Formats 6 and 7, by the fixed byte 0 (R129, R130). -/
def enc67 (b0 : Byte) (op : Nat) (i : Size) (g1 g2 : Gen) : Code :=
  .bytes (b0 :: (wordLE (gensWord op i g1 g2) ++ (g1.bytes ++ g2.bytes)))

/-- The byte sequences of `UNDEFINED.B10`. -/
def encUndef : UndefB10 → Code
  | .byte b => .bytes [b]
  | .fmt5 w => .bytes (0x0E#8 :: wordLE w.toNat)
  | .fmt6 w => .bytes (0x4E#8 :: wordLE w.toNat)
  | .fmt7 w => .bytes (0xCE#8 :: wordLE w.toNat)

/-- The words or bytes of a well-formed instruction (R102 to R110, R123 to R130). -/
def encode : Instr → Code
  | .sCall a => .word (BitVec.ofNat 16 a.toNat)
  | .sIf a => .word (BitVec.ofNat 16 (0x9000 + a.toNat))
  | .sLoop a => .word (BitVec.ofNat 16 (0xA000 + a.toNat))
  | .sElse a => .word (BitVec.ofNat 16 (0xB000 + a.toNat))
  | .aluT o => aluWord .t o
  | .aluAnd o => aluWord .and o
  | .aluSub o => aluWord .sub o
  | .aluOr o => aluWord .or o
  | .aluAdd o => aluWord .add o
  | .aluXor o => aluWord .xor o
  | .aluSuby o => aluWord .suby o
  | .aluY o => aluWord .y o
  | .lfetch op tn ret a5 => lliWord 12 0 op tn ret a5.toNat
  | .ifetch op tn ret sa slot => lliWord 12 1 op tn ret (sa.toNat * 16 + slot.val)
  | .lits op tn ret a5 => lliWord 12 2 op tn ret a5.toNat
  | .litl op tn ret a5 => lliWord 12 3 op tn ret a5.toNat
  | .lstore op tn ret a5 => lliWord 13 0 op tn ret a5.toNat
  | .istore op tn ret slot => lliWord 13 1 op tn ret slot.val
  | .istoreSa op tn ret slot => lliWord 13 1 op tn ret (16 + slot.val)
  | .iswap op tn ret sa slot => lliWord 13 2 op tn ret (sa.toNat * 16 + slot.val)
  | .lliReserved op tn ret a5 => lliWord 13 3 op tn ret a5.toNat
  | .mfetch0 op tn ret lit5 => lliWord 14 0 op tn ret lit5.toNat
  | .mfetch1 op tn ret lit5 => lliWord 14 1 op tn ret lit5.toNat
  | .mfetch2 op tn ret lit5 => lliWord 14 2 op tn ret lit5.toNat
  | .mfetchx op tn ret lit5 => lliWord 14 3 op tn ret lit5.toNat
  | .mstore0 op tn ret lit5 => lliWord 15 0 op tn ret lit5.toNat
  | .mstore1 op tn ret lit5 => lliWord 15 1 op tn ret lit5.toNat
  | .mstore2 op tn ret lit5 => lliWord 15 2 op tn ret lit5.toNat
  | .mstorex op tn ret lit5 => lliWord 15 3 op tn ret lit5.toNat
  | .beq d => enc0 .eq d
  | .bne d => enc0 .ne d
  | .bcs d => enc0 .cs d
  | .bcc d => enc0 .cc d
  | .bhi d => enc0 .hi d
  | .bls d => enc0 .ls d
  | .bgt d => enc0 .gt d
  | .ble d => enc0 .le d
  | .bfs d => enc0 .fs d
  | .bfc d => enc0 .fc d
  | .blo d => enc0 .lo d
  | .bhs d => enc0 .hs d
  | .blt d => enc0 .lt d
  | .bge d => enc0 .ge d
  | .br d => enc0 .always d
  | .bn d => enc0 .never d
  | .bsr d => enc1 0 d.bytes
  | .ret d => enc1 1 d.bytes
  | .cxp d => enc1 2 d.bytes
  | .rxp d => enc1 3 d.bytes
  | .rett d => enc1 4 d.bytes
  | .reti => enc1 5 []
  | .save m => enc1 6 [m]
  | .restore m => enc1 7 [m]
  | .enter m d => enc1 8 (m :: d.bytes)
  | .exitI m => enc1 9 [m]
  | .nop => enc1 10 []
  | .wait => enc1 11 []
  | .dia => enc1 12 []
  | .flag => enc1 13 []
  | .svc => enc1 14 []
  | .bpt => enc1 15 []
  | .movs o i => enc5 0 o i
  | .cmps o i => enc5 1 o i
  | .setcfg o i => enc5 2 o i
  | .skps o i => enc5 3 o i
  | .rot i g1 g2 => enc67 0x4E 0 i g1 g2
  | .ash i g1 g2 => enc67 0x4E 1 i g1 g2
  | .cbit i g1 g2 => enc67 0x4E 2 i g1 g2
  | .cbiti i g1 g2 => enc67 0x4E 3 i g1 g2
  | .lsh i g1 g2 => enc67 0x4E 5 i g1 g2
  | .sbit i g1 g2 => enc67 0x4E 6 i g1 g2
  | .sbiti i g1 g2 => enc67 0x4E 7 i g1 g2
  | .neg i g1 g2 => enc67 0x4E 8 i g1 g2
  | .notI i g1 g2 => enc67 0x4E 9 i g1 g2
  | .subp i g1 g2 => enc67 0x4E 11 i g1 g2
  | .absI i g1 g2 => enc67 0x4E 12 i g1 g2
  | .com i g1 g2 => enc67 0x4E 13 i g1 g2
  | .ibit i g1 g2 => enc67 0x4E 14 i g1 g2
  | .addp i g1 g2 => enc67 0x4E 15 i g1 g2
  | .movm i g1 g2 => enc67 0xCE 0 i g1 g2
  | .cmpm i g1 g2 => enc67 0xCE 1 i g1 g2
  | .inss i g1 g2 => enc67 0xCE 2 i g1 g2
  | .exts i g1 g2 => enc67 0xCE 3 i g1 g2
  | .movxbw i g1 g2 => enc67 0xCE 4 i g1 g2
  | .movzbw i g1 g2 => enc67 0xCE 5 i g1 g2
  | .movzid i g1 g2 => enc67 0xCE 6 i g1 g2
  | .movxid i g1 g2 => enc67 0xCE 7 i g1 g2
  | .mul i g1 g2 => enc67 0xCE 8 i g1 g2
  | .mei i g1 g2 => enc67 0xCE 9 i g1 g2
  | .dei i g1 g2 => enc67 0xCE 11 i g1 g2
  | .quo i g1 g2 => enc67 0xCE 12 i g1 g2
  | .rem i g1 g2 => enc67 0xCE 13 i g1 g2
  | .modI i g1 g2 => enc67 0xCE 14 i g1 g2
  | .divI i g1 g2 => enc67 0xCE 15 i g1 g2
  | .undefinedB10 u => encUndef u
  | .cxpd i g => enc3 0 i g
  | .bicpsr i g => enc3 2 i g
  | .jump i g => enc3 4 i g
  | .bispsr i g => enc3 6 i g
  | .adjsp i g => enc3 10 i g
  | .jsr i g => enc3 12 i g
  | .caseI i g => enc3 14 i g
  | .undefinedF3 gen op i => .bytes (wordLE (gen.val * 2048 + op.val * 128 + 124 + i.code))
  | .addq q i g => enc2 0 q.toNat i g []
  | .cmpq q i g => enc2 1 q.toNat i g []
  | .spr p i g => enc2 2 p.toNat i g []
  | .scond c i g => enc2 3 c.code i g []
  | .acb q i g d => enc2 4 q.toNat i g d.bytes
  | .movq q i g => enc2 5 q.toNat i g []
  | .lpr p i g => enc2 6 p.toNat i g []
  | .add i g1 g2 => enc4 0 i g1 g2
  | .cmp i g1 g2 => enc4 1 i g1 g2
  | .bic i g1 g2 => enc4 2 i g1 g2
  | .addc i g1 g2 => enc4 4 i g1 g2
  | .mov i g1 g2 => enc4 5 i g1 g2
  | .orI i g1 g2 => enc4 6 i g1 g2
  | .sub i g1 g2 => enc4 8 i g1 g2
  | .addr i g1 g2 => enc4 9 i g1 g2
  | .andI i g1 g2 => enc4 10 i g1 g2
  | .subc i g1 g2 => enc4 12 i g1 g2
  | .tbit i g1 g2 => enc4 13 i g1 g2
  | .xorI i g1 g2 => enc4 14 i g1 g2

/-! ## The host's table words -/

/-- The longest RegisterCPU instruction: three bytes and two extensions of two 4-byte displacements (R120). -/
def maxBytes : Nat := 19

/-- The bytes of a table number, byte 0 in bits 7:0 (R121, R137). -/
def tableBytes (w : Nat) : Nat → List Byte
  | 0 => []
  | k + 1 => BitVec.ofNat 8 w :: tableBytes (w / 256) k

/-- Which core's table a number of `nbits` bits belongs to. The rows of 8 and 24 bits are RegisterCPU's. The 16-bit rows of
the two tables overlap (a StackCPU CALL is also a RegisterCPU format 2, 3 or 4 word): a word with bit 15 set, or with the
low bits 10 that no 16-bit RegisterCPU row has, is read as StackCPU's, every other as RegisterCPU's (DESIGN CHOICE, log 9). -/
def tableIsStack (nbits w : Nat) : Bool := nbits == 16 && (bits w 15 15 == 1 || bits w 1 0 == 2)

/-- The instruction the decoder reads from a table number, with zeros above its bits. -/
def decodeTableWord (nbits w : Nat) : Option Instr :=
  let code := if tableIsStack nbits w then Code.word (BitVec.ofNat 16 w) else .bytes (tableBytes (w % 2 ^ nbits) maxBytes)
  match decode code with
  | .ok i => some i
  | .error _ => none

end Sys2Proof
end

