-- ==== Sys2Proof/Machine/State.lean ====
section
/-!
DEFINITION. The machine's state as plain data: both cores (R2, R20, R40), the host side of the StackCPU ports, the
parameters of R10, and the schedule; the reasons a step stops; the state after reset (R452, R453).
-/
namespace Sys2Proof.Machine

/-- Memory as key and value pairs in one canonical form (`CellWf`): the locations that something has written (log 5). -/
abbrev Cells (w : Nat) := List (Nat × BitVec w)

/-- The two cores (R1). -/
inductive CoreId where
  | stack | reg
deriving DecidableEq, Repr

/-- One call of an output callback (R219, R223). -/
inductive PortOut where
  | b (v : Word)
  | x (v : BitVec 5)
deriving DecidableEq, Repr

/-- The host side of the StackCPU ports: the model's own fields (log 12, log 13). -/
structure PortSide where
  /-- What the bound B input callback returns now; none when no callback is bound (R218, R226). -/
  bIn : Option Word
  /-- The same for the X port (R223, R226). -/
  xIn : Option (BitVec 5)
  /-- A B output callback is bound (R219, R226). -/
  bOutBound : Bool
  /-- An X output callback is bound (R223, R226). -/
  xOutBound : Bool
  /-- The output callback calls made so far, oldest first. -/
  outs : List PortOut
deriving DecidableEq, Repr

/-- StackCPU: the register file of R20 and its three memories (R70). -/
@[ext] structure StackCpu where
  pc : Word
  t : Word
  n : Word
  i : Word
  j : Byte
  k : Byte
  md : Word
  sr : Word
  bdata : Word
  bdir : Word
  bmask : Word
  btri : Word
  xdata : BitVec 5
  xdir : BitVec 5
  xmask : BitVec 5
  xtri : BitVec 5
  carry : Bool
  timesmode : Bool
  intreq : Bool
  prog : Cells 16
  ds : Cells 16
  rs : Cells 16
  io : PortSide
deriving DecidableEq, Repr

/-- RegisterCPU: the register file of R40 and its memory (R80). `sp0` and `sp1` are the spec's `sp[0]` and `sp[1]`. -/
@[ext] structure RegCpu where
  r : Vector DWord 8
  pc : DWord
  sb : DWord
  fp : DWord
  sp0 : DWord
  sp1 : DWord
  intbase : DWord
  mod : Word
  psr : Word
  cfg : BitVec 4
  mem : List Host.Cell
deriving DecidableEq, Repr

/-- What the host may do between two steps (R13, R145, R450, R451, R469; log 2). -/
inductive HostAct where
  /-- Asserts the StackCPU interrupt request line (R35). -/
  | irq
  /-- Sets what the input callbacks return from now on, or unbinds them (R145, R226). -/
  | pins (b : Option Word) (x : Option (BitVec 5))
  /-- Binds or unbinds the output callbacks (R226). -/
  | bindOut (b x : Bool)
  /-- Resets StackCPU (R450, R452). -/
  | resetStack
  /-- Resets RegisterCPU (R450, R453). -/
  | resetReg
  /-- Hands the next steps to a core (R92). -/
  | run (core : CoreId)
  /-- Stores a StackCPU program word: a loaded image, or another writer of a shared region (R451, R469). -/
  | storeProg (a v : Word)
  /-- Stores a word of the data-stack space (R451, R469). -/
  | storeData (a : Byte) (v : Word)
  /-- Stores a word of the return-stack space (R451, R469). -/
  | storeReturn (a : Byte) (v : Word)
  /-- Stores a byte of RegisterCPU memory (R451, R469). -/
  | storeMem (a : DWord) (v : Byte)
deriving DecidableEq, Repr

/-- The whole machine: two cores that share nothing (R2). -/
structure State where
  /-- StackCPU. -/
  stack : StackCpu
  /-- RegisterCPU. -/
  reg : RegCpu
  /-- The parameters of R10; no step changes them (log 7). -/
  par : Params
  /-- The core that the next step runs (log 1). -/
  turn : CoreId
  /-- The host's coming actions, one batch before each step; none when the list is empty (log 2). -/
  script : List (List HostAct)
deriving DecidableEq, Repr

/-- `Fatal(NotImplemented)` (R14, R440): the core executes nothing more and its state has no meaning. -/
inductive Fault where
  /-- Raised by a mnemonic of `REGCPU_UNIMPLEMENTED`, before any operand is resolved. Safe: nothing follows. -/
  | notImplementedOpcode (m : RegMnemonic)
  /-- Raised by resolving gen mode 28 + `k` (R266). Safe: nothing follows. -/
  | notImplementedMode (k : Fin 4)
deriving DecidableEq, Repr

/-- `Refuse` (R14, R441), and what the model itself gives no meaning. -/
inductive Refusal where
  /-- Raised by `exec` for an instruction that has no meaning yet. Safe: nothing follows. -/
  | notModelled (mnemonic : String)
  /-- Raised by the reserved StackCPU store encoding (R205). Safe: nothing follows. -/
  | reservedEncoding
  /-- Raised by an ALU word with the step flag and a function that has no step condition (R177). Safe: nothing follows. -/
  | stepFlagWithoutCondition
  /-- Raised by a RegisterCPU step whose fetched bytes end inside an instruction; nineteen bytes never do. Safe. -/
  | undecodable (e : DecodeError)
deriving DecidableEq, Repr

/-- The host side with nothing bound (R226; DESIGN CHOICE, log 12, log 13). -/
def PortSide.unbound : PortSide := { bIn := none, xIn := none, bOutBound := false, xOutBound := false, outs := [] }

/-- The machine after reset: every field at the value of R452 and R453; the registers R453 leaves unspecified are 0
(DESIGN CHOICE, log 4), memory lists nothing (log 5), StackCPU runs first (log 1), the host does nothing (log 2). -/
def State.reset : State :=
  { stack :=
      { pc := Config.defaults.stackBoot, t := 0, n := 0, i := 0, j := 0, k := 0, md := 0, sr := 0,
        bdata := 0, bdir := 0, bmask := 0, btri := 0, xdata := 0, xdir := 0, xmask := 0, xtri := 0,
        carry := false, timesmode := false, intreq := false, prog := [], ds := [], rs := [], io := PortSide.unbound },
    reg :=
      { r := Vector.replicate 8 0, pc := Config.defaults.regBoot, sb := 0, fp := 0, sp0 := 0, sp1 := 0, intbase := 0,
        mod := 0, psr := 0, cfg := 0, mem := [] },
    par := Config.defaults,
    turn := .stack,
    script := [] }

end Sys2Proof.Machine
end

