-- ==== Sys2Proof/Machine/Flags.lean ====
section
/-!
DEFINITION. Arithmetic with its flags. StackCPU: the shared evaluator (R170), the step conditions (R176, R177), the shift
micro-step on values (R178 to R181). RegisterCPU: `psr` bits (R47), `AddFlags` and `SubFlags` (R348), the compare flags
(R337), conditions (R281), shifts (R362 to R365), division (R397 to R400).
-/
namespace Sys2Proof.Machine

/-! ## StackCPU -/

/-- The evaluator's result and carry-out (R170). -/
structure AluRes where
  r : Word
  cout : Bool
deriving DecidableEq, Repr

/-- A sum of the evaluator: 16 bits of result, bit 16 as carry-out (R170, R174). -/
def aluSum (s : Nat) : AluRes := { r := BitVec.ofNat 16 s, cout := s.testBit 16 }

/-- `AluFn` (R170). For the functions that have no carry-out the field is false and nobody reads it. -/
def aluFn (op : AluOp) (a y : Word) (cin : Bool) : AluRes :=
  match op with
  | .t => { r := a, cout := false }
  | .and => { r := a &&& y, cout := false }
  | .sub => aluSum (a.toNat + (~~~y).toNat + 1 + cin.toNat)
  | .or => { r := a ||| y, cout := false }
  | .add => aluSum (a.toNat + y.toNat + cin.toNat)
  | .xor => { r := a ^^^ y, cout := false }
  | .suby => aluSum (y.toNat + (~~~a).toNat + 1 + cin.toNat)
  | .y => { r := y, cout := false }

/-- The functions that write `carry` (R105). -/
def writesCarry : AluOp → Bool
  | .sub => true
  | .add => true
  | .suby => true
  | .t => false
  | .and => false
  | .or => false
  | .xor => false
  | .y => false

/-- `StepCondition` (R176, R177): the new carry for a trial subtraction, the low bit of `n` for a multiply step; none for
the functions that have no step condition (R114). -/
def stepCondition (op : AluOp) (n : Word) (cout : Bool) : Option Bool :=
  match op with
  | .sub => some cout
  | .suby => some cout
  | .add => some (n.getLsbD 0)
  | .t => none
  | .and => none
  | .or => none
  | .xor => none
  | .y => none

/-! ## RegisterCPU: sizes and `psr` bits -/

/-- The low bits of a value, zero-extended (R269). -/
def lowBits (n : Size) (v : DWord) : DWord :=
  match n with
  | .b => (v.setWidth 8).setWidth 32
  | .w => (v.setWidth 16).setWidth 32
  | .undef => v
  | .d => v

/-- `old` with its low bits replaced by those of `v` (R41, R253). -/
def mergeLow (n : Size) (old v : DWord) : DWord :=
  match n with
  | .b => old.extractLsb' 8 24 ++ v.setWidth 8
  | .w => old.extractLsb' 16 16 ++ v.setWidth 16
  | .undef => v
  | .d => v

/-- `signed_B` of the low bits (R11). -/
def signedOf (n : Size) (v : DWord) : Int :=
  match n with
  | .b => (v.setWidth 8).toInt
  | .w => (v.setWidth 16).toInt
  | .undef => v.toInt
  | .d => v.toInt

/-- An integer narrowed to the operand width (R401: its low `B` bits). -/
def narrow (n : Size) (v : Int) : DWord := lowBits n (BitVec.ofInt 32 v)

/-- `C`, carry or borrow (R47). -/
abbrev bitC : Nat := 0
/-- `T`, trace enable (R47). -/
abbrev bitT : Nat := 1
/-- `L`, lower (R47). -/
abbrev bitL : Nat := 2
/-- `F`, overflow or general flag (R47). -/
abbrev bitF : Nat := 5
/-- `Z`, zero (R47). -/
abbrev bitZ : Nat := 6
/-- `N`, negative (R47). -/
abbrev bitN : Nat := 7
/-- `U`, user mode (R47). -/
abbrev bitU : Nat := 8
/-- `S`, stack select (R47). -/
abbrev bitS : Nat := 9
/-- `P`, trace pending (R47). -/
abbrev bitP : Nat := 10
/-- `I`, interrupt enable (R47). -/
abbrev bitI : Nat := 11

/-- One bit of `psr`. -/
def psrBit (p : Word) (k : Nat) : Bool := p.getLsbD k

/-- `psr` with bit `k` written. -/
def setPsrBit (p : Word) (k : Nat) (v : Bool) : Word :=
  if v then p ||| BitVec.twoPow 16 k else p &&& ~~~BitVec.twoPow 16 k

/-- `C` and `F` written, as the additive instructions do (R348). -/
def setCF (p : Word) (c f : Bool) : Word := setPsrBit (setPsrBit p bitC c) bitF f

/-- `Z`, `N`, `L` written, as the compares do (R337). -/
def setZNL (p : Word) (z n l : Bool) : Word := setPsrBit (setPsrBit (setPsrBit p bitZ z) bitN n) bitL l

/-- `psr` with its low byte replaced (R50, R316). -/
def setPsrLow (p : Word) (v : Byte) : Word := p.extractLsb' 8 8 ++ v

/-! ## RegisterCPU: arithmetic flags -/

/-- A result with `C` and `F` (R348). -/
structure ArithRes where
  val : DWord
  c : Bool
  f : Bool
deriving DecidableEq, Repr

/-- The signed value does not fit in `B` bits (R348). -/
def outOfRange (n : Size) (v : Int) : Bool := decide (v < -2 ^ (n.bits - 1)) || decide (2 ^ (n.bits - 1) ≤ v)

/-- `AddFlags(a, b, c)` (R348), on `B`-bit values in 32-bit containers. -/
def addFlags (n : Size) (a b : DWord) (c : Bool) : ArithRes :=
  let s := a.toNat + b.toNat + c.toNat
  { val := lowBits n (BitVec.ofNat 32 s)
    c := s.testBit n.bits
    f := outOfRange n (signedOf n a + signedOf n b + c.toNat) }

/-- `SubFlags(a, b, c)`, that is `a - b - c` (R348). -/
def subFlags (n : Size) (a b : DWord) (c : Bool) : ArithRes :=
  { val := lowBits n (a - b - BitVec.ofNat 32 c.toNat)
    c := decide (a.toNat < b.toNat + c.toNat)
    f := outOfRange n (signedOf n a - signedOf n b - c.toNat) }

/-- The flags of comparing `a` with `b` (R337, R312, R358). -/
def cmpFlags (n : Size) (a b : DWord) (p : Word) : Word :=
  setZNL p (a == b) (decide (signedOf n b < signedOf n a)) (decide (b.toNat < a.toNat))

/-- `CondTrue` (R281). -/
def condTrue (c : Cond) (p : Word) : Bool :=
  match c with
  | .eq => psrBit p bitZ
  | .ne => !psrBit p bitZ
  | .cs => psrBit p bitC
  | .cc => !psrBit p bitC
  | .hi => psrBit p bitL
  | .ls => !psrBit p bitL
  | .gt => psrBit p bitN
  | .le => !psrBit p bitN
  | .fs => psrBit p bitF
  | .fc => !psrBit p bitF
  | .lo => !psrBit p bitL && !psrBit p bitZ
  | .hs => psrBit p bitL || psrBit p bitZ
  | .lt => !psrBit p bitN && !psrBit p bitZ
  | .ge => psrBit p bitN || psrBit p bitZ
  | .always => true
  | .never => false

/-! ## RegisterCPU: shifts and division -/

/-- `quick`, sign-extended to 32 bits (R132). -/
def quickValue (q : BitVec 4) : DWord := q.signExtend 32

/-- A shift count: the low byte, signed (R363). -/
def countOf (v : DWord) : Int := (v.setWidth 8).toInt

/-- `ROT` (R362) of a `B`-bit value. -/
def rotate (n : Size) (c : Int) (x : DWord) : DWord :=
  let k := (c % (n.bits : Int)).toNat
  lowBits n (BitVec.ofNat 32 (x.toNat * 2 ^ k + x.toNat / 2 ^ (n.bits - k)))

/-- `ASH` (R364) of a `B`-bit value. -/
def arithShift (n : Size) (c : Int) (x : DWord) : DWord :=
  if 0 ≤ c then narrow n (x.toNat * 2 ^ c.toNat)
  else narrow n (signedOf n x / 2 ^ min (-c).toNat (n.bits - 1))

/-- `LSH` (R365) of a `B`-bit value. -/
def logicShift (n : Size) (c : Int) (x : DWord) : DWord :=
  if 0 ≤ c then narrow n (x.toNat * 2 ^ c.toNat)
  else narrow n (x.toNat / 2 ^ (-c).toNat)

/-- `QUO` (R397): the quotient rounded toward zero. -/
def quoOf (d s : Int) : Int := Int.tdiv d s

/-- `REM` (R398): the remainder with the sign of the dividend. -/
def remOf (d s : Int) : Int := d - s * Int.tdiv d s

/-- `MOD` (R399): the modulus with the sign of the divisor. -/
def modOf (d s : Int) : Int := d - s * Int.fdiv d s

/-- `DIV` (R400): the quotient rounded toward minus infinity. -/
def divOf (d s : Int) : Int := Int.fdiv d s

end Sys2Proof.Machine
end

