-- ==== Sys2Proof/Machine/Ops.lean ====
section
/-!
DEFINITION. The named operations over memory and registers of both cores: cells in canonical form; the StackCPU stacks,
phases and return post-process; RegisterCPU memory, stack, module reload, TRAP ENTRY and trap return; the host's actions.
-/
namespace Sys2Proof.Machine

/-! ## Cells -/

/-- What the key reads as; a key that nothing has written reads as the free value of its space (R451, log 5). -/
def cellRead {w : Nat} (free : Nat → BitVec w) : Cells w → Nat → BitVec w
  | [], a => free a
  | (k, v) :: rest, a => if k = a then v else cellRead free rest a

/-- No entry for the key. -/
def cellErase {w : Nat} (m : Cells w) (a : Nat) : Cells w := m.filter (fun c => c.1 != a)

/-- The entry put in before the first greater key. -/
def cellInsert {w : Nat} : Cells w → Nat → BitVec w → Cells w
  | [], a, v => [(a, v)]
  | (k, x) :: rest, a, v => if a < k then (a, v) :: (k, x) :: rest else (k, x) :: cellInsert rest a v

/-- The one entry of the key replaced. An entry is never equal to what an unlisted key reads as, because that has no value
the model knows: a listed key is one that something has written. -/
def cellWrite {w : Nat} (m : Cells w) (a : Nat) (v : BitVec w) : Cells w := cellInsert (cellErase m a) a v

/-- The canonical form: keys strictly rising, so one entry a key, and inside the space. -/
abbrev CellWf {w : Nat} (size : Nat) (m : Cells w) : Prop :=
  m.Pairwise (fun a b => a.1 < b.1) ∧ ∀ c ∈ m, c.1 < size

/-- The canonical form of all four memories: 65536 program words, 256 words of each stack space (R71, R74), 2^32 bytes of
RegisterCPU memory (R80). -/
abbrev Memory.wf (s : State) : Prop :=
  CellWf 65536 s.stack.prog ∧ CellWf 256 s.stack.ds ∧ CellWf 256 s.stack.rs ∧ CellWf 4294967296 s.reg.mem

/-! ## StackCPU: memory and stacks -/

/-- `ProgRead(w)` (R72). -/
def StackCpu.progRead (c : StackCpu) (a : Word) : Word := cellRead Config.progFree c.prog a.toNat

/-- `ProgWrite(w, v)` (R73). -/
def StackCpu.progWrite (c : StackCpu) (a v : Word) : StackCpu := { c with prog := cellWrite c.prog a.toNat v }

/-- `DS[a]` (R74). -/
def StackCpu.dsRead (c : StackCpu) (a : Byte) : Word := cellRead Config.dsFree c.ds a.toNat

/-- `RS[a]` (R74). -/
def StackCpu.rsRead (c : StackCpu) (a : Byte) : Word := cellRead Config.rsFree c.rs a.toNat

/-- `DPushN` (R31): the caller then writes `n`. -/
def StackCpu.dPushN (c : StackCpu) : StackCpu := { c with ds := cellWrite c.ds c.k.toNat c.n, k := c.k - 1 }

/-- `DPopN` (R31). -/
def StackCpu.dPopN (c : StackCpu) : StackCpu := { c with k := c.k + 1, n := c.dsRead (c.k + 1) }

/-- `RPush(v)` (R31). -/
def StackCpu.rPush (c : StackCpu) (v : Word) : StackCpu :=
  { c with rs := cellWrite c.rs c.j.toNat c.i, j := c.j - 1, i := v }

/-- `RPop` (R31). -/
def StackCpu.rPop (c : StackCpu) : StackCpu := { c with j := c.j + 1, i := c.rsRead (c.j + 1) }

/-- The push of a value's old holder: `DPushN`, then `n` gets `t` (R171, R191). -/
def StackCpu.pushTN (c : StackCpu) : StackCpu := { c.dPushN with n := c.t }

/-- The saved pair: carry in bit 15 over the low 15 bits of `pc` (R26, R141, R146). -/
def StackCpu.savedWord (c : StackCpu) : Word := BitVec.ofBool c.carry ++ c.pc.setWidth 15

/-- Pushes the saved pair and goes to an address: CALL and interrupt service (R141, R146). -/
def StackCpu.callTo (c : StackCpu) (target : Word) : StackCpu := { c.rPush c.savedWord with pc := target }

/-- The target inside the page of `pc` (R148). -/
def StackCpu.pageTarget (c : StackCpu) (a : BitVec 12) : Word := c.pc.extractLsb' 12 4 ++ a

/-! ## StackCPU: the phases of a step -/

/-- The interrupt is serviced in this step (R141). -/
def StackCpu.serviced (ieMask : BitVec 5) (c : StackCpu) : Bool := c.intreq && (c.xtri &&& ieMask != 0)

/-- Interrupt phase (R141, R414). -/
def StackCpu.interruptPhase (ieMask : BitVec 5) (c : StackCpu) : StackCpu :=
  if c.serviced ieMask then { c.callTo Config.stackIntVector with intreq := false } else c

/-- TIMES phase (R142). -/
def StackCpu.timesPhase (c : StackCpu) : StackCpu :=
  if c.timesmode then
    let c1 := { c with i := c.i - 1 }
    if c1.i = 0 then { c1.rPop with timesmode := false } else c1
  else c

/-- The advance of `pc` past the fetched word, suppressed in TIMES (R22, R143). -/
def StackCpu.advance (c : StackCpu) : StackCpu := if c.timesmode then c else { c with pc := c.pc + 1 }

/-- The state that the fetch of a step sees: after the interrupt and TIMES phases (R140). -/
def StackCpu.beforeFetch (ieMask : BitVec 5) (c : StackCpu) : StackCpu := (c.interruptPhase ieMask).timesPhase

/-- The word that a step fetches (R143). -/
def StackCpu.fetched (ieMask : BitVec 5) (c : StackCpu) : Word :=
  (c.beforeFetch ieMask).progRead (c.beforeFetch ieMask).pc

/-- The state that the execute part of a step starts from (R140). -/
def StackCpu.afterFetch (ieMask : BitVec 5) (c : StackCpu) : StackCpu := (c.beforeFetch ieMask).advance

/-- The return-bit post-process (R183). -/
def StackCpu.retPost (c : StackCpu) (ret : Bool) : StackCpu :=
  if ret && !c.timesmode then
    { c.rPop with pc := (c.i.setWidth 15).setWidth 16, carry := c.i.getLsbD 15 }
  else c

/-- The shared evaluator's write: `carry` when the function has one, then `t` (R170, R191, R192). -/
def StackCpu.fold (c : StackCpu) (op : AluOp) (a y : Word) (cin : Bool) : StackCpu :=
  { c with t := (aluFn op a y cin).r, carry := if writesCarry op then (aluFn op a y cin).cout else c.carry }

/-- The shift micro-step (R178 to R181). -/
def StackCpu.shift (c : StackCpu) (sh32 : Bool) (sh : ShiftCode) : StackCpu :=
  match sh, sh32 with
  | .none, _ => c
  | .sign, _ => { c with t := if c.t.getLsbD 15 then 0xFFFF#16 else 0#16 }
  | .left, false => { c with t := c.t.setWidth 15 ++ BitVec.ofBool c.carry }
  | .right, false => { c with t := c.t >>> 1, carry := c.t.getLsbD 0 }
  | .left, true =>
    { c with t := c.t.setWidth 15 ++ BitVec.ofBool (c.n.getLsbD 15), n := c.n.setWidth 15 ++ BitVec.ofBool c.carry,
             carry := c.t.getLsbD 15 }
  | .right, true =>
    { c with t := BitVec.ofBool c.carry ++ c.t.extractLsb' 1 15, n := BitVec.ofBool (c.t.getLsbD 0) ++ c.n.extractLsb' 1 15,
             carry := c.n.getLsbD 0 }

/-- StackCPU after a reset: every register of R20 zero or false but `pc`; memories and the host side kept (R451, R452). -/
def StackCpu.afterReset (boot : Word) (c : StackCpu) : StackCpu :=
  { pc := boot, t := 0, n := 0, i := 0, j := 0, k := 0, md := 0, sr := 0, bdata := 0, bdir := 0, bmask := 0, btri := 0,
    xdata := 0, xdir := 0, xmask := 0, xtri := 0, carry := false, timesmode := false, intreq := false,
    prog := c.prog, ds := c.ds, rs := c.rs, io := c.io }

/-! ## RegisterCPU: memory and registers -/

/-- One byte of memory (R80). -/
def RegCpu.byteAt (c : RegCpu) (a : DWord) : Byte := cellRead Config.memFree c.mem a.toNat

/-- One byte stored (R81). -/
def RegCpu.putByte (c : RegCpu) (a : DWord) (v : Byte) : RegCpu := { c with mem := cellWrite c.mem a.toNat v }

/-- `MemRead(addr, 2)` (R80, R82). -/
def RegCpu.read16 (c : RegCpu) (a : DWord) : Word := c.byteAt (a + 1) ++ c.byteAt a

/-- `MemRead(addr, 4)` (R80, R82). -/
def RegCpu.read32 (c : RegCpu) (a : DWord) : DWord := c.read16 (a + 2) ++ c.read16 a

/-- `MemWrite(addr, 2, v)` (R81, R82). -/
def RegCpu.write16 (c : RegCpu) (a : DWord) (v : Word) : RegCpu :=
  (c.putByte a (v.setWidth 8)).putByte (a + 1) (v.extractLsb' 8 8)

/-- `MemWrite(addr, 4, v)` (R81, R82). -/
def RegCpu.write32 (c : RegCpu) (a v : DWord) : RegCpu :=
  (c.write16 a (v.setWidth 16)).write16 (a + 2) (v.extractLsb' 16 16)

/-- `MemRead(addr, n)`, zero-extended (R80, R269). -/
def RegCpu.memRead (c : RegCpu) (a : DWord) (n : Size) : DWord :=
  match n with
  | .b => (c.byteAt a).setWidth 32
  | .w => (c.read16 a).setWidth 32
  | .undef => c.read32 a
  | .d => c.read32 a

/-- `MemWrite(addr, n, v)` (R81). -/
def RegCpu.memWrite (c : RegCpu) (a : DWord) (n : Size) (v : DWord) : RegCpu :=
  match n with
  | .b => c.putByte a (v.setWidth 8)
  | .w => c.write16 a (v.setWidth 16)
  | .undef => c.write32 a v
  | .d => c.write32 a v

/-- A general register, all 32 bits (R41). -/
def RegCpu.reg (c : RegCpu) (k : Fin 8) : DWord := c.r[k]

/-- A write of the low bits of a general register; the others are kept (R41). -/
def RegCpu.setReg (c : RegCpu) (k : Fin 8) (n : Size) (v : DWord) : RegCpu :=
  { c with r := c.r.set k (mergeLow n c.r[k] v) }

/-- `psr` replaced. -/
def RegCpu.withPsr (c : RegCpu) (p : Word) : RegCpu := { c with psr := p }

/-- `pc` moved past an instruction of that length (R42). -/
def RegCpu.advance (c : RegCpu) (len : Nat) : RegCpu := { c with pc := c.pc + BitVec.ofNat 32 len }

/-- `pc` replaced. -/
def RegCpu.goto (c : RegCpu) (a : DWord) : RegCpu := { c with pc := a }

/-- User mode (R430). -/
def RegCpu.user (c : RegCpu) : Bool := psrBit c.psr bitU

/-! ## RegisterCPU: the stack -/

/-- `SP` is `sp[psr.S]` (R44, R249). -/
def RegCpu.sp (c : RegCpu) : DWord := if psrBit c.psr bitS then c.sp1 else c.sp0

/-- `SP` written (R44, R249). -/
def RegCpu.setSp (c : RegCpu) (v : DWord) : RegCpu :=
  if psrBit c.psr bitS then { c with sp1 := v } else { c with sp0 := v }

/-- `PushN(v, n)` (R249). -/
def RegCpu.pushN (c : RegCpu) (n : Size) (v : DWord) : RegCpu :=
  (c.setSp (c.sp - BitVec.ofNat 32 n.bytes)).memWrite (c.sp - BitVec.ofNat 32 n.bytes) n v

/-- `Push32(v)` (R249). -/
def RegCpu.push32 (c : RegCpu) (v : DWord) : RegCpu := c.pushN .d v

/-- The item `PopN(n)` returns (R249). -/
def RegCpu.topN (c : RegCpu) (n : Size) : DWord := c.memRead c.sp n

/-- The state `PopN(n)` leaves (R249). -/
def RegCpu.dropN (c : RegCpu) (n : Size) : RegCpu := c.setSp (c.sp + BitVec.ofNat 32 n.bytes)

/-- The item `Pop32()` returns (R249). -/
def RegCpu.top32 (c : RegCpu) : DWord := c.topN .d

/-- The state `Pop32()` leaves (R249). -/
def RegCpu.drop32 (c : RegCpu) : RegCpu := c.dropN .d

/-- `SaveRegs(mask)` (R289): bit `b` names `r[b]`, scanned from bit 0. -/
def RegCpu.saveRegs (c : RegCpu) (mask : Byte) : RegCpu :=
  (List.finRange 8).foldl (fun c (b : Fin 8) => if mask.getLsbD b.val then c.push32 (c.reg b) else c) c

/-- One register popped. -/
def RegCpu.popReg (c : RegCpu) (k : Fin 8) : RegCpu := c.drop32.setReg k .d c.top32

/-- `RestoreRegs(mask)` (R289): bit `b` names `r[7-b]`, scanned from bit 0. -/
def RegCpu.restoreRegs (c : RegCpu) (mask : Byte) : RegCpu :=
  (List.finRange 8).foldl (fun c (b : Fin 8) => if mask.getLsbD b.val then c.popReg b.rev else c) c

/-! ## RegisterCPU: modules, traps and their return -/

/-- `mod` as an address (R46). -/
def RegCpu.modAddr (c : RegCpu) : DWord := c.mod.setWidth 32

/-- The entry of the current module's link table (R263, R284). -/
def RegCpu.linkEntry (c : RegCpu) (index : DWord) : DWord := c.read32 (c.read32 (c.modAddr + 4) + 4 * index)

/-- `mod` written and `sb` reloaded from the module table (R43, R46). -/
def RegCpu.loadModule (c : RegCpu) (m : Word) : RegCpu :=
  { c with mod := m, sb := c.read32 (m.setWidth 32) }

/-- Entering the procedure of a descriptor: module in the low half, offset in the high half (R284, R421). -/
def RegCpu.enterDescriptor (c : RegCpu) (desc : DWord) : RegCpu :=
  { c.loadModule (desc.setWidth 16) with
    pc := c.read32 ((desc.setWidth 16).setWidth 32 + 8) + (desc.extractLsb' 16 16).setWidth 32 }

/-- The external call from the descriptor on (R284, R321): `mod`, then the return address, then the new module. -/
def RegCpu.callDescriptor (c : RegCpu) (desc ret : DWord) : RegCpu :=
  ((c.push32 c.modAddr).push32 ret).enterDescriptor desc

/-- The traps (R420). -/
inductive Trap where
  | ill | svc | dvz | flg | bpt | trc | und
deriving DecidableEq, Repr

/-- Their vector numbers (R420). -/
def trapVector : Trap → Nat
  | .ill => 4
  | .svc => 5
  | .dvz => 6
  | .flg => 7
  | .bpt => 8
  | .trc => 9
  | .und => 10

/-- The state in which trap entry has pushed its frame: `S`, `U`, `T`, `P` cleared, then old `psr` over `mod`, then `pc`,
on `sp[0]` (R421). -/
def RegCpu.trapFrame (c : RegCpu) : RegCpu :=
  ((c.withPsr (c.psr &&& Config.trapPsrKeep)).push32 (c.psr ++ c.mod)).push32 c.pc

/-- TAKING A TRAP, the one entry sequence (R411, R421), on the state before the trapping instruction (R422). -/
def RegCpu.trapEntry (c : RegCpu) (t : Trap) : RegCpu :=
  c.trapFrame.enterDescriptor (c.trapFrame.read32 (c.intbase + 4 * BitVec.ofNat 32 (trapVector t)))

/-- THE RETURN FROM A TRAP (R286, R429): `pc`, then `mod` and the whole `psr`, `sb` from the restored module's table, and
the displacement added to the stack pointer of the context returned to. -/
def RegCpu.trapReturn (c : RegCpu) (d : DWord) : RegCpu :=
  let c1 := c.drop32
  let m := c1.top32
  let c2 := ((c1.drop32.goto c.top32).withPsr (m.extractLsb' 16 16)).loadModule (m.setWidth 16)
  c2.setSp (c2.sp + d)

/-- How an instruction ends without a result of its own. -/
inductive Abort where
  | trap (t : Trap)
  | fatal (f : Fault)
deriving DecidableEq, Repr

/-- The outcome type of a meaning. -/
abbrev Out := Host.Outcome State Fault Refusal

/-- Ends a RegisterCPU instruction: its result, the trap entry on the state before it (R240, R422), or the fault. The fault
ends the run of the whole State, the other core's too; R14 says of the failing core only that it executes nothing more
(DESIGN CHOICE, log 23). -/
def finishReg (s : State) : Except Abort RegCpu → Out
  | .ok c => .next { s with reg := c }
  | .error (.trap t) => .next { s with reg := s.reg.trapEntry t }
  | .error (.fatal f) => .fault f

/-- RegisterCPU after a reset (R453); the registers it leaves unspecified are 0 (DESIGN CHOICE, log 4), memory is kept
(R451). -/
def RegCpu.afterReset (boot : DWord) (c : RegCpu) : RegCpu :=
  { r := Vector.replicate 8 0, pc := boot, sb := 0, fp := 0, sp0 := 0, sp1 := 0, intbase := 0, mod := 0, psr := 0, cfg := 0,
    mem := c.mem }

/-- `k` bytes from an address on (R241). -/
def RegCpu.bytesFrom (c : RegCpu) (a : DWord) : Nat → List Byte
  | 0 => []
  | k + 1 => c.byteAt a :: c.bytesFrom (a + 1) k

/-- The bytes a RegisterCPU step decodes from (R241; log 20). -/
def RegCpu.fetched (c : RegCpu) : List Byte := c.bytesFrom c.pc maxBytes

/-- Bytes stored at ascending addresses. -/
def RegCpu.putBytes (c : RegCpu) (a : DWord) : List Byte → RegCpu
  | [] => c
  | b :: bs => (c.putByte a b).putBytes (a + 1) bs

/-! ## The host between two steps -/

/-- One action of the host (R13, R35, R145, R226, R450, R451, R469). -/
def hostAct (s : State) : HostAct → State
  | .irq => { s with stack := { s.stack with intreq := true } }
  | .pins b x => { s with stack := { s.stack with io := { s.stack.io with bIn := b, xIn := x } } }
  | .bindOut b x => { s with stack := { s.stack with io := { s.stack.io with bOutBound := b, xOutBound := x } } }
  | .resetStack => { s with stack := s.stack.afterReset s.par.stackBoot }
  | .resetReg => { s with reg := s.reg.afterReset s.par.regBoot }
  | .run core => { s with turn := core }
  | .storeProg a v => { s with stack := s.stack.progWrite a v }
  | .storeData a v => { s with stack := { s.stack with ds := cellWrite s.stack.ds a.toNat v } }
  | .storeReturn a v => { s with stack := { s.stack with rs := cellWrite s.stack.rs a.toNat v } }
  | .storeMem a v => { s with reg := s.reg.putByte a v }

/-- The host's batch before a step, taken off the script (log 2). -/
def hostPhase (s : State) : State :=
  match s.script with
  | [] => s
  | acts :: rest => acts.foldl hostAct { s with script := rest }

end Sys2Proof.Machine
end

