-- ==== Sys2Proof/Machine/Operands.lean ====
section
/-!
DEFINITION. Every operand form. StackCPU: operand-2 select (R161), the stack adjust (R171), the internal slots (R210 to
R226), the skeletons of the fetch, store and ALU classes (R160, R172, R191, R192). RegisterCPU: the gen resolver (R252 to R270),
the processor registers (R316), the place of a bit (R346), the string options and step (R355, R356), and the shapes that
the formats share, with the order of checks of R424.
-/
namespace Sys2Proof.Machine

/-! ## StackCPU: the ALU class -/

/-- `SelectY` (R161): the second operand. -/
def StackCpu.selectY (c : StackCpu) : YSrc → Word
  | .n => c.n
  | .nc => c.n
  | .md => c.md
  | .sr => c.sr

/-- `SelectY` (R161): the incoming carry. -/
def StackCpu.selectCin (c : StackCpu) : YSrc → Bool
  | .n => false
  | .nc => c.carry
  | .md => false
  | .sr => false

/-- `StackAdjust` (R171): a push whatever `sa` is, else a pop, else nothing. -/
def StackCpu.stackAdjust (c : StackCpu) (tn sa : Bool) : StackCpu :=
  if tn then c.pushTN else if sa then c.dPopN else c

/-- `Evaluate` (R172): `carry` in every case, `t` unless the step condition fails. -/
def StackCpu.evaluate (c : StackCpu) (op : AluOp) (y : Word) (cin step : Bool) : StackCpu :=
  let res := aluFn op c.t y cin
  { c with
    t := if step && stepCondition op c.n res.cout != some true then c.t else res.r
    carry := if writesCarry op then res.cout else c.carry }

/-- The five micro-steps of an ALU word that is not refused (R160). -/
def StackCpu.aluSteps (c : StackCpu) (op : AluOp) (o : AluOpts) : StackCpu :=
  ((((c.stackAdjust o.tn o.sa).evaluate op (c.selectY o.ysrc) (c.selectCin o.ysrc) o.step).shift o.sh32 o.sh).retPost o.ret)

/-- The step flag stands with a function that has no step condition (R114, R177). -/
def stepRefused (op : AluOp) (o : AluOpts) : Bool := o.step && !writesCarry op

/-- The next state of a StackCPU instruction. -/
def nextStack (s : State) (c : StackCpu) : Out := .next { s with stack := c }

/-- An ALU-class instruction (R160), refused where R177 refuses it. -/
def aluClass (s : State) (op : AluOp) (o : AluOpts) : Out :=
  if stepRefused op o then .refused .stepFlagWithoutCondition else nextStack s (s.stack.aluSteps op o)

/-! ## StackCPU: the internal slots -/

/-- What the B input callback returns; 0 when none is bound (R218, R226). -/
def StackCpu.bPins (c : StackCpu) : Word := c.io.bIn.getD 0

/-- What the X input callback returns; 0 when none is bound (R223, R226). -/
def StackCpu.xPins (c : StackCpu) : BitVec 5 := c.io.xIn.getD 0

/-- A B output callback call, dropped when none is bound (R219, R226). -/
def StackCpu.bOut (c : StackCpu) : StackCpu :=
  if c.io.bOutBound then { c with io := { c.io with outs := c.io.outs ++ [.b c.bdata] } } else c

/-- An X output callback call, dropped when none is bound (R223, R226). -/
def StackCpu.xOut (c : StackCpu) : StackCpu :=
  if c.io.xOutBound then { c with io := { c.io with outs := c.io.outs ++ [.x c.xdata] } } else c

/-- `IntRead(reg)` (R210, R212 to R225). -/
def StackCpu.intRead (c : StackCpu) (slot : Fin 16) : Word :=
  match slot.val with
  | 0 => c.k ++ c.j
  | 1 => c.i
  | 2 => c.pc
  | 3 => 0xFFFF#16
  | 4 => c.md
  | 5 => c.md
  | 6 => c.sr
  | 7 => c.sr
  | 8 => c.bdata ^^^ (c.bPins &&& ~~~c.bdir)
  | 9 => c.bmask
  | 10 => c.bdir
  | 11 => c.btri
  | 12 => (c.xdata ^^^ (c.xPins &&& ~~~c.xdir)).setWidth 16
  | 13 => c.xmask.setWidth 16
  | 14 => c.xdir.setWidth 16
  | _ => c.xtri.setWidth 16

/-- `IntWrite(reg, v)` (R210, R212 to R225). -/
def StackCpu.intWrite (c : StackCpu) (slot : Fin 16) (v : Word) : StackCpu :=
  match slot.val with
  | 0 => { c with k := v.extractLsb' 8 8, j := v.setWidth 8 }
  | 1 => { c with i := v }
  | 2 => { c with pc := v }
  | 3 => c
  | 4 => { c with md := v }
  | 5 => { c with md := v }
  | 6 => { c with sr := v }
  | 7 => { c with sr := v }
  | 8 => { c with bdata := (c.bdata &&& c.bmask) ||| (v &&& ~~~c.bmask) }.bOut
  | 9 => { c with bmask := v }
  | 10 => { c with bdir := v }
  | 11 => { c with btri := v }
  | 12 => { c with xdata := (c.xdata &&& c.xmask) ||| (v.setWidth 5 &&& ~~~c.xmask) }.xOut
  | 13 => { c with xmask := v.setWidth 5 }
  | 14 => { c with xdir := v.setWidth 5 }
  | _ => { c with xtri := v.setWidth 5 }

/-- The state in which TIMES has begun: `i` pushed, the latch set, before the slot write (R203). -/
def StackCpu.timesBegin (c : StackCpu) : StackCpu := { c.rPush c.i with timesmode := true }

/-! ## StackCPU: the fetch and store skeletons -/

/-- `LliFetch` from the fetched value on (R191, R193). -/
def StackCpu.fetchWith (c : StackCpu) (op : AluOp) (tn ret : Bool) (v : Word) : StackCpu :=
  ((if tn then c.pushTN else c).fold op c.t v false).retPost ret

/-- `LliStore` after the store action (R192, R193); `y` is the old `n` or the old slot value, `t` is the stored value. -/
def StackCpu.storeWith (c : StackCpu) (op : AluOp) (tn ret : Bool) (y : Word) : StackCpu :=
  ((if tn then c.dPopN else c).fold op c.t y false).retPost ret

/-- `MFETCHX` (R232). -/
def StackCpu.fetchStep (c : StackCpu) (op : AluOp) (ret : Bool) (lit : BitVec 5) : StackCpu :=
  ({ c.dPushN with n := c.progRead c.t }.fold op c.t (lit.setWidth 16) false).retPost ret

/-- `MFETCH` (R233). -/
def StackCpu.fetchMem (c : StackCpu) (op : AluOp) (tn ret : Bool) : StackCpu :=
  (if tn then (c.fold op (c.progRead c.t) c.n false).dPopN else { c with t := c.progRead c.t }).retPost ret

/-- `MSTOREX` (R235). -/
def StackCpu.storeStep (c : StackCpu) (op : AluOp) (ret : Bool) (lit : BitVec 5) : StackCpu :=
  ((c.progWrite c.t c.n).dPopN.fold op c.t (lit.setWidth 16) false).retPost ret

/-- `MSTORE` (R236). -/
def StackCpu.storeMem (c : StackCpu) (op : AluOp) (tn ret : Bool) : StackCpu :=
  (if tn then (c.progWrite c.t c.n).dPopN.fold op c.t c.n false else c.progWrite c.t c.n).retPost ret

/-! ## RegisterCPU: the gen operands -/

/-- An operand descriptor (R250). -/
inductive Opnd where
  | reg (k : Fin 8)
  | mem (ea : DWord)
  | imm (v : DWord)
  | tos
deriving DecidableEq, Repr

/-- A descriptor that can be a destination or hold a bit (R270). -/
inductive Dest where
  | reg (k : Fin 8)
  | mem (ea : DWord)
  | tos
deriving DecidableEq, Repr

/-- The trap of an undefined encoding (R425). -/
def undefined {α : Type} : Except Abort α := .error (.trap .und)

/-- The base of modes 16 to 18 (R252). -/
def RegCpu.memBase (c : RegCpu) : MemBase → DWord
  | .fp => c.fp
  | .sp => c.sp
  | .sb => c.sb

/-- The base of modes 24 to 27 (R265). -/
def RegCpu.spaceBase (c : RegCpu) : SpaceBase → DWord
  | .fp => c.fp
  | .sp => c.sp
  | .sb => c.sb
  | .pc => c.pc

/-- `Resolve` (R250, R252 to R266). -/
def RegCpu.resolve (c : RegCpu) : Gen → Except Abort Opnd
  | .reg k => .ok (.reg k)
  | .rel k d => .ok (.mem (c.reg k + d.value))
  | .memRel b d1 d2 => .ok (.mem (c.read32 (c.memBase b + d1.value) + d2.value))
  | .reserved => undefined
  | .imm v => .ok (.imm v.value)
  | .abs d => .ok (.mem d.value)
  | .ext d1 d2 => .ok (.mem (c.linkEntry d1.value + d2.value))
  | .tos => .ok .tos
  | .space b d => .ok (.mem (c.spaceBase b + d.value))
  | .scaled k => .error (.fatal (.notImplementedMode k))

/-- Class `write`, `rmw` or `regaddr`: an immediate has none of them (R270). -/
def asDest : Opnd → Except Abort Dest
  | .reg k => .ok (.reg k)
  | .mem ea => .ok (.mem ea)
  | .imm _ => undefined
  | .tos => .ok .tos

/-- `gen_addr` (R267). -/
def RegCpu.addrOf (c : RegCpu) : Opnd → Except Abort DWord
  | .reg _ => undefined
  | .mem ea => .ok ea
  | .imm _ => undefined
  | .tos => .ok c.sp

/-- The value of `gen_read` (R269). -/
def RegCpu.srcValue (c : RegCpu) (n : Size) : Opnd → DWord
  | .reg k => lowBits n (c.reg k)
  | .mem ea => c.memRead ea n
  | .imm v => v
  | .tos => c.topN n

/-- The state `gen_read` leaves: top of stack is popped (R264, R269). -/
def RegCpu.afterSource (c : RegCpu) (n : Size) : Opnd → RegCpu
  | .reg _ => c
  | .mem _ => c
  | .imm _ => c
  | .tos => c.dropN n

/-- The read half of `gen_rmw` (R269). -/
def RegCpu.destValue (c : RegCpu) (n : Size) : Dest → DWord
  | .reg k => lowBits n (c.reg k)
  | .mem ea => c.memRead ea n
  | .tos => c.memRead c.sp n

/-- The write half of `gen_rmw` (R269): top of stack is written in place. -/
def RegCpu.destUpdate (c : RegCpu) (n : Size) (d : Dest) (v : DWord) : RegCpu :=
  match d with
  | .reg k => c.setReg k n v
  | .mem ea => c.memWrite ea n v
  | .tos => c.memWrite c.sp n v

/-- `gen_write` (R269): top of stack is pushed. -/
def RegCpu.destWrite (c : RegCpu) (n : Size) (d : Dest) (v : DWord) : RegCpu :=
  match d with
  | .reg k => c.setReg k n v
  | .mem ea => c.memWrite ea n v
  | .tos => c.pushN n v

/-! ## RegisterCPU: checks -/

/-- The checks on the basic instruction, before any operand (R424 step 1). -/
def guarded {α : Type} (ok : Bool) (body : Except Abort α) : Except Abort α := if ok then body else undefined

/-- A privileged operation (R426, R430). -/
def RegCpu.privileged {α : Type} (c : RegCpu) (body : Except Abort α) : Except Abort α :=
  if c.user then .error (.trap .ill) else body

/-- A defined size code (R131, R425 (d)). -/
def sized (i : Size) : Bool := i != .undef

/-- The length of an instruction whose basic part has `k` bytes, with one general operand (R241, R268). -/
def lenOne (k : Nat) (g : Gen) : Nat := k + g.len

/-- The same with two general operands. -/
def lenTwo (k : Nat) (g1 g2 : Gen) : Nat := k + g1.len + g2.len

/-! ## RegisterCPU: the shapes of instructions -/

/-- `src` `read`, then whatever is done with the value; the continuation starts from the state after the read. -/
def RegCpu.readOne (c : RegCpu) (n : Size) (g : Gen) (k : RegCpu → DWord → RegCpu) : Except Abort RegCpu := do
  let o ← c.resolve g
  return k (c.afterSource n o) (c.srcValue n o)

/-- `dst` `rmw`: `f` gives the result and the new `psr`. -/
def RegCpu.rmwOne (c : RegCpu) (n : Size) (g : Gen) (len : Nat) (f : Word → DWord → DWord × Word) :
    Except Abort RegCpu := do
  let o ← c.resolve g
  let d ← asDest o
  let res := f c.psr (c.destValue n d)
  return ((c.destUpdate n d res.1).withPsr res.2).advance len

/-- `dst` `write`. -/
def RegCpu.writeOne (c : RegCpu) (n : Size) (g : Gen) (len : Nat) (v : DWord) : Except Abort RegCpu := do
  let o ← c.resolve g
  let d ← asDest o
  return (c.destWrite n d v).advance len

/-- Class `addr`, then whatever is done with the address. -/
def RegCpu.addrOne (c : RegCpu) (g : Gen) (k : DWord → RegCpu) : Except Abort RegCpu := do
  let o ← c.resolve g
  let ea ← c.addrOf o
  return k ea

/-- Both operands `read`: `f` gives the new `psr`. -/
def RegCpu.readTwo (c : RegCpu) (n : Size) (g1 g2 : Gen) (len : Nat) (f : Word → DWord → DWord → Word) :
    Except Abort RegCpu := do
  let o1 ← c.resolve g1
  let o2 ← c.resolve g2
  let c1 := c.afterSource n o1
  return ((c1.afterSource n o2).withPsr (f c.psr (c.srcValue n o1) (c1.srcValue n o2))).advance len

/-- `src` `read`, `dst` `write`: `f` gives the result and the new `psr`. -/
def RegCpu.writeTwo (c : RegCpu) (n1 n2 : Size) (g1 g2 : Gen) (len : Nat) (f : Word → DWord → DWord × Word) :
    Except Abort RegCpu := do
  let o1 ← c.resolve g1
  let o2 ← c.resolve g2
  let d ← asDest o2
  let res := f c.psr (c.srcValue n1 o1)
  return (((c.afterSource n1 o1).destWrite n2 d res.1).withPsr res.2).advance len

/-- `src` `read`, `dst` `rmw`: `f` gets `psr`, the source and the destination, and gives the result and the new `psr`. -/
def RegCpu.rmwTwo (c : RegCpu) (n1 n2 : Size) (g1 g2 : Gen) (len : Nat) (f : Word → DWord → DWord → DWord × Word) :
    Except Abort RegCpu := do
  let o1 ← c.resolve g1
  let o2 ← c.resolve g2
  let d ← asDest o2
  let c1 := c.afterSource n1 o1
  let res := f c.psr (c.srcValue n1 o1) (c1.destValue n2 d)
  return ((c1.destUpdate n2 d res.1).withPsr res.2).advance len

/-- Division (R401): the class check comes before the test of the divisor, the test before the dividend is read. -/
def RegCpu.divTwo (c : RegCpu) (n : Size) (g1 g2 : Gen) (f : Int → Int → Int) : Except Abort RegCpu := do
  let o1 ← c.resolve g1
  let o2 ← c.resolve g2
  let d ← asDest o2
  let v := c.srcValue n o1
  if signedOf n v = 0 then .error (.trap .dvz)
  else
    let c1 := c.afterSource n o1
    return (c1.destUpdate n d (narrow n (f (signedOf n (c1.destValue n d)) (signedOf n v)))).advance (lenTwo 3 g1 g2)

/-! ## RegisterCPU: bits -/

/-- A bit in a register or in a byte of memory (R346). -/
inductive BitPlace where
  | reg (k : Fin 8) (b : Nat)
  | mem (a : DWord) (b : Nat)
deriving DecidableEq, Repr

/-- `BitLocate` (R346): bit `o mod 32` of a register, else bit `o mod 8` of the byte at `ea + floor(o / 8)`. -/
def RegCpu.bitLocate (c : RegCpu) (o : Int) : Dest → BitPlace
  | .reg k => .reg k (o % 32).toNat
  | .mem ea => .mem (ea + BitVec.ofInt 32 (o / 8)) (o % 8).toNat
  | .tos => .mem (c.sp + BitVec.ofInt 32 (o / 8)) (o % 8).toNat

/-- The bit. -/
def RegCpu.bitAt (c : RegCpu) : BitPlace → Bool
  | .reg k b => (c.reg k).getLsbD b
  | .mem a b => (c.byteAt a).getLsbD b

/-- A value with one bit written. -/
def putBit {w : Nat} (x : BitVec w) (b : Nat) (v : Bool) : BitVec w :=
  if v then x ||| BitVec.twoPow w b else x &&& ~~~BitVec.twoPow w b

/-- The bit written, the others kept (R367). -/
def RegCpu.withBit (c : RegCpu) (p : BitPlace) (v : Bool) : RegCpu :=
  match p with
  | .reg k b => c.setReg k .d (putBit (c.reg k) b v)
  | .mem a b => c.putByte a (putBit (c.byteAt a) b v)

/-- A bit instruction (R346, R367): `F` gets the old bit; `f` gives what is then done at the bit's place. -/
def RegCpu.bitTwo (c : RegCpu) (n : Size) (g1 g2 : Gen) (len : Nat) (f : RegCpu → BitPlace → Bool → RegCpu) :
    Except Abort RegCpu := do
  let o1 ← c.resolve g1
  let o2 ← c.resolve g2
  let d ← asDest o2
  let c1 := c.afterSource n o1
  let p := c1.bitLocate (signedOf n (c.srcValue n o1)) d
  let old := c1.bitAt p
  return ((f c1 p old).withPsr (setPsrBit c.psr bitF old)).advance len

/-! ## RegisterCPU: processor registers -/

/-- The assigned processor registers (R316). -/
inductive ProcReg where
  | upsr | fp | sp | sb | psr | intbase | mod
deriving DecidableEq, Repr

/-- The register of a code; none where the code is unassigned (R316). -/
def procReg (code : BitVec 4) : Option ProcReg :=
  match code.toNat with
  | 0 => some .upsr
  | 8 => some .fp
  | 9 => some .sp
  | 10 => some .sb
  | 13 => some .psr
  | 14 => some .intbase
  | 15 => some .mod
  | _ => none

/-- The two privileged registers (R316). -/
def procPrivileged : ProcReg → Bool
  | .psr => true
  | .intbase => true
  | .upsr => false
  | .fp => false
  | .sp => false
  | .sb => false
  | .mod => false

/-- `ProcRead` (R316). -/
def RegCpu.procRead (c : RegCpu) : ProcReg → DWord
  | .upsr => (c.psr.setWidth 8).setWidth 32
  | .fp => c.fp
  | .sp => c.sp
  | .sb => c.sb
  | .psr => c.psr.setWidth 32
  | .intbase => c.intbase
  | .mod => c.mod.setWidth 32

/-- A 16-bit register written through an operand of size `n` (R316): the low byte, or all of it. -/
def putHalf (n : Size) (old : Word) (v : DWord) : Word :=
  match n with
  | .b => setPsrLow old (v.setWidth 8)
  | .w => v.setWidth 16
  | .undef => v.setWidth 16
  | .d => v.setWidth 16

/-- `ProcWrite` (R316). -/
def RegCpu.procWrite (c : RegCpu) (p : ProcReg) (n : Size) (v : DWord) : RegCpu :=
  match p with
  | .upsr => c.withPsr (setPsrLow c.psr (v.setWidth 8))
  | .fp => { c with fp := mergeLow n c.fp v }
  | .sp => c.setSp (mergeLow n c.sp v)
  | .sb => { c with sb := mergeLow n c.sb v }
  | .psr => c.withPsr (putHalf n c.psr v)
  | .intbase => { c with intbase := mergeLow n c.intbase v }
  | .mod => { c with mod := putHalf n c.mod v }

/-- The checks of `LPR` and `SPR` after the operand is resolved (R424 steps 3 and 4). -/
def RegCpu.procCheck (c : RegCpu) (code : BitVec 4) : Except Abort ProcReg :=
  match procReg code with
  | none => undefined
  | some p => if procPrivileged p && c.user then .error (.trap .ill) else .ok p

/-! ## RegisterCPU: strings -/

/-- The stop conditions `UW` (R355). -/
inductive StopKind where
  | none | whileMatch | untilMatch
deriving DecidableEq, Repr

/-- Bits 3:2 of the options; nothing for the undefined pattern (R355). -/
def stopKind (opts : BitVec 4) : Option StopKind :=
  match (opts.extractLsb' 2 2).toNat with
  | 0 => some .none
  | 1 => some .whileMatch
  | 2 => Option.none
  | _ => some .untilMatch

/-- Option `T`, translate (R355). -/
def optTranslate (opts : BitVec 4) : Bool := opts.getLsbD 0

/-- Option `BK`, backward (R355). -/
def optBackward (opts : BitVec 4) : Bool := opts.getLsbD 1

/-- The option patterns that are defined for a size (R355, R425 (c), (d)). -/
def stringDefined (opts : BitVec 4) (i : Size) : Bool :=
  sized i && (stopKind opts).isSome && (!optTranslate opts || i == .b)

/-- The element at `r1`, translated if `T` (R355, R356). -/
def RegCpu.element (c : RegCpu) (opts : BitVec 4) (i : Size) : DWord :=
  if optTranslate opts then (c.byteAt (c.reg 3 + c.memRead (c.reg 1) i)).setWidth 32 else c.memRead (c.reg 1) i

/-- The `U` or `W` condition stops the instruction at this element (R355, R356). -/
def RegCpu.stops (c : RegCpu) (opts : BitVec 4) (i : Size) (e : DWord) : Bool :=
  match stopKind opts with
  | some .whileMatch => e != lowBits i (c.reg 4)
  | some .untilMatch => e == lowBits i (c.reg 4)
  | some .none => false
  | Option.none => false

/-- A string pointer moved by one element (R356). -/
def RegCpu.stepPtr (c : RegCpu) (k : Fin 8) (opts : BitVec 4) (i : Size) : RegCpu :=
  c.setReg k .d (if optBackward opts then c.reg k - BitVec.ofNat 32 i.bytes else c.reg k + BitVec.ofNat 32 i.bytes)

/-- The end of a string instruction: `F` written, `pc` moved past its three bytes (R356). -/
def RegCpu.stringFinish (c : RegCpu) (f : Bool) : RegCpu := (c.withPsr (setPsrBit c.psr bitF f)).advance 3

/-- What one element's step is built from (R356 to R359). -/
structure StringKind where
  /-- Stores the element at `r2` (`MOVS`). -/
  stores : Bool
  /-- Compares with the element at `r2` and sets `Z N L` (`CMPS`). -/
  compares : Bool
  /-- Moves `r2` (all but `SKPS`). -/
  movesDst : Bool
deriving DecidableEq, Repr

/-- An exit with the count at 0: `CMPS` then also sets `Z`, clears `N` and `L` (R356, R358). -/
def RegCpu.stringDone (c : RegCpu) (k : StringKind) : RegCpu :=
  (if k.compares then c.withPsr (setZNL c.psr true false false) else c).stringFinish false

/-- `body(e)` without its early exit (R357 to R359). -/
def RegCpu.stringBody (c : RegCpu) (k : StringKind) (i : Size) (e : DWord) : RegCpu :=
  let c1 := if k.stores then c.memWrite (c.reg 2) i e else c
  if k.compares then c1.withPsr (cmpFlags i e (c.memRead (c.reg 2) i) c.psr) else c1

/-- The pointers and the count after a consumed element (R356). -/
def RegCpu.stringAdvance (c : RegCpu) (k : StringKind) (opts : BitVec 4) (i : Size) : RegCpu :=
  let c1 := c.stepPtr 1 opts i
  let c2 := if k.movesDst then c1.stepPtr 2 opts i else c1
  c2.setReg 0 .d (c2.reg 0 - 1)

/-- One step of a string instruction (R356): at most one element; unfinished, it leaves `pc` alone. -/
def RegCpu.stringStep (c : RegCpu) (k : StringKind) (opts : BitVec 4) (i : Size) : RegCpu :=
  if c.reg 0 = 0 then c.stringDone k
  else
    let e := c.element opts i
    if c.stops opts i e then c.stringFinish true
    else
      let c1 := c.stringBody k i e
      if k.compares && e != c.memRead (c.reg 2) i then c1.stringFinish false
      else
        let c2 := c1.stringAdvance k opts i
        if c2.reg 0 = 0 then c2.stringDone k else c2

end Sys2Proof.Machine
end

