-- ==== Sys2Proof/Machine/RegArith.lean ====
section
/-!
DEFINITION. RegisterCPU format 4: two-operand arithmetic, logic, move, compare (R336 to R349). The first operand is the source.
-/
namespace Sys2Proof.Machine

/-- `ADDi` (R336). -/
def execAdd (i : Size) (g1 g2 : Gen) (s : State) : Out :=
  finishReg s (guarded (sized i) (s.reg.rmwTwo i i g1 g2 (lenTwo 2 g1 g2) fun p a b =>
    let res := addFlags i b a false
    (res.val, setCF p res.c res.f)))

/-- `CMPi` (R337): the first operand relative to the second. -/
def execCmp (i : Size) (g1 g2 : Gen) (s : State) : Out :=
  finishReg s (guarded (sized i) (s.reg.readTwo i g1 g2 (lenTwo 2 g1 g2) fun p a b => cmpFlags i a b p))

/-- `BICi` (R338). -/
def execBic (i : Size) (g1 g2 : Gen) (s : State) : Out :=
  finishReg s (guarded (sized i) (s.reg.rmwTwo i i g1 g2 (lenTwo 2 g1 g2) fun p a b =>
    (b &&& ~~~a, p)))

/-- `ADDCi` (R339). -/
def execAddc (i : Size) (g1 g2 : Gen) (s : State) : Out :=
  finishReg s (guarded (sized i) (s.reg.rmwTwo i i g1 g2 (lenTwo 2 g1 g2) fun p a b =>
    let res := addFlags i b a (psrBit p bitC)
    (res.val, setCF p res.c res.f)))

/-- `MOVi` (R340). -/
def execMov (i : Size) (g1 g2 : Gen) (s : State) : Out :=
  finishReg s (guarded (sized i) (s.reg.writeTwo i i g1 g2 (lenTwo 2 g1 g2) fun p a => (a, p)))

/-- `ORi` (R341). -/
def execOrI (i : Size) (g1 g2 : Gen) (s : State) : Out :=
  finishReg s (guarded (sized i) (s.reg.rmwTwo i i g1 g2 (lenTwo 2 g1 g2) fun p a b =>
    (b ||| a, p)))

/-- `SUBi` (R342): `dst - src`, `C` is a borrow. -/
def execSub (i : Size) (g1 g2 : Gen) (s : State) : Out :=
  finishReg s (guarded (sized i) (s.reg.rmwTwo i i g1 g2 (lenTwo 2 g1 g2) fun p a b =>
    let res := subFlags i b a false
    (res.val, setCF p res.c res.f)))

/-- `ADDR` (R343): the double word form only; the address is taken before the write. -/
def execAddr (i : Size) (g1 g2 : Gen) (s : State) : Out :=
  finishReg s (guarded (i == .d) (do
    let o1 ← s.reg.resolve g1
    let o2 ← s.reg.resolve g2
    let ea ← s.reg.addrOf o1
    let d ← asDest o2
    return (s.reg.destWrite .d d ea).advance (lenTwo 2 g1 g2)))

/-- `ANDi` (R344). -/
def execAndI (i : Size) (g1 g2 : Gen) (s : State) : Out :=
  finishReg s (guarded (sized i) (s.reg.rmwTwo i i g1 g2 (lenTwo 2 g1 g2) fun p a b =>
    (b &&& a, p)))

/-- `SUBCi` (R345). -/
def execSubc (i : Size) (g1 g2 : Gen) (s : State) : Out :=
  finishReg s (guarded (sized i) (s.reg.rmwTwo i i g1 g2 (lenTwo 2 g1 g2) fun p a b =>
    let res := subFlags i b a (psrBit p bitC)
    (res.val, setCF p res.c res.f)))

/-- `TBITi` (R346). -/
def execTbit (i : Size) (g1 g2 : Gen) (s : State) : Out :=
  finishReg s (guarded (sized i) (s.reg.bitTwo i g1 g2 (lenTwo 2 g1 g2) fun c _ _ => c))

/-- `XORi` (R347). -/
def execXorI (i : Size) (g1 g2 : Gen) (s : State) : Out :=
  finishReg s (guarded (sized i) (s.reg.rmwTwo i i g1 g2 (lenTwo 2 g1 g2) fun p a b =>
    (b ^^^ a, p)))

end Sys2Proof.Machine
end

