-- ==== Sys2Proof/Machine/RegBranch.lean ====
section
/-!
DEFINITION. RegisterCPU format 0: the sixteen conditional branches (R280, R281).
-/
namespace Sys2Proof.Machine

/-- `Bcond` (R280): the target is relative to the branch itself. -/
def branch (c : Cond) (d : Disp) (s : State) : Out :=
  finishReg s (.ok (if condTrue c s.reg.psr then s.reg.goto (s.reg.pc + d.value) else s.reg.advance (1 + d.len)))

/-- `BEQ` (R280, R281). -/
def execBeq (d : Disp) (s : State) : Out := branch .eq d s

/-- `BNE` (R280, R281). -/
def execBne (d : Disp) (s : State) : Out := branch .ne d s

/-- `BCS` (R280, R281). -/
def execBcs (d : Disp) (s : State) : Out := branch .cs d s

/-- `BCC` (R280, R281). -/
def execBcc (d : Disp) (s : State) : Out := branch .cc d s

/-- `BHI` (R280, R281). -/
def execBhi (d : Disp) (s : State) : Out := branch .hi d s

/-- `BLS` (R280, R281). -/
def execBls (d : Disp) (s : State) : Out := branch .ls d s

/-- `BGT` (R280, R281). -/
def execBgt (d : Disp) (s : State) : Out := branch .gt d s

/-- `BLE` (R280, R281). -/
def execBle (d : Disp) (s : State) : Out := branch .le d s

/-- `BFS` (R280, R281). -/
def execBfs (d : Disp) (s : State) : Out := branch .fs d s

/-- `BFC` (R280, R281). -/
def execBfc (d : Disp) (s : State) : Out := branch .fc d s

/-- `BLO` (R280, R281). -/
def execBlo (d : Disp) (s : State) : Out := branch .lo d s

/-- `BHS` (R280, R281). -/
def execBhs (d : Disp) (s : State) : Out := branch .hs d s

/-- `BLT` (R280, R281). -/
def execBlt (d : Disp) (s : State) : Out := branch .lt d s

/-- `BGE` (R280, R281). -/
def execBge (d : Disp) (s : State) : Out := branch .ge d s

/-- `BR`, always (R280, R281). -/
def execBr (d : Disp) (s : State) : Out := branch .always d s

/-- `BN`, never (R280, R281). -/
def execBn (d : Disp) (s : State) : Out := branch .never d s

end Sys2Proof.Machine
end

