-- ==== Sys2Proof/Machine/RegControl.lean ====
section
/-!
DEFINITION. RegisterCPU format 1: control transfer (R282 to R299).
-/
namespace Sys2Proof.Machine

/-- `BSR` (R282). -/
def execBsr (d : Disp) (s : State) : Out :=
  finishReg s (.ok ((s.reg.push32 (s.reg.pc + BitVec.ofNat 32 (1 + d.len))).goto (s.reg.pc + d.value)))

/-- `RET` (R283): the displacement is a byte count added to `SP`. -/
def execRet (d : Disp) (s : State) : Out :=
  finishReg s (.ok ((s.reg.drop32.setSp (s.reg.drop32.sp + d.value)).goto s.reg.top32))

/-- `CXP` (R284). -/
def execCxp (d : Disp) (s : State) : Out :=
  finishReg s (.ok (s.reg.callDescriptor (s.reg.linkEntry d.value) (s.reg.pc + BitVec.ofNat 32 (1 + d.len))))

/-- `RXP` (R285). -/
def execRxp (d : Disp) (s : State) : Out :=
  finishReg s (.ok (
    let c1 := (s.reg.drop32.drop32.goto s.reg.top32).loadModule (s.reg.drop32.top32.setWidth 16)
    c1.setSp (c1.sp + d.value)))

/-- `RETT` (R286, R429): privileged. -/
def execRett (d : Disp) (s : State) : Out := finishReg s (s.reg.privileged (.ok (s.reg.trapReturn d.value)))

/-- `RETI` (R287): no interrupts exist, so it traps as undefined. -/
def execReti (s : State) : Out := finishReg s undefined

/-- `SAVE` (R288). -/
def execSave (mask : Byte) (s : State) : Out := finishReg s (.ok ((s.reg.saveRegs mask).advance 2))

/-- `RESTORE` (R290). -/
def execRestore (mask : Byte) (s : State) : Out := finishReg s (.ok ((s.reg.restoreRegs mask).advance 2))

/-- `ENTER` (R291): old `fp` pushed, `fp` at it, locals below, then the registers. -/
def execEnter (mask : Byte) (d : Disp) (s : State) : Out :=
  finishReg s (.ok (
    let c1 := s.reg.push32 s.reg.fp
    let c2 := { c1 with fp := c1.sp }.setSp (c1.sp - d.value)
    (c2.saveRegs mask).advance (2 + d.len)))

/-- `EXIT` (R292). -/
def execExitI (mask : Byte) (s : State) : Out :=
  finishReg s (.ok (
    let c1 := s.reg.restoreRegs mask
    let c2 := c1.setSp c1.fp
    { c2.drop32 with fp := c2.top32 }.advance 2))

/-- `NOP` (R293). -/
def execNop (s : State) : Out := finishReg s (.ok (s.reg.advance 1))

/-- `WAIT` (R294, R433): every register is left as it was, also `pc`. -/
def execWait (s : State) : Out := finishReg s (.ok s.reg)

/-- `DIA` (R295): traps as undefined. -/
def execDia (s : State) : Out := finishReg s undefined

/-- `FLAG` (R296): traps when `F` is set. -/
def execFlag (s : State) : Out :=
  finishReg s (if psrBit s.reg.psr bitF then .error (.trap .flg) else .ok (s.reg.advance 1))

/-- `SVC` (R297). -/
def execSvc (s : State) : Out := finishReg s (.error (.trap .svc))

/-- `BPT` (R298). -/
def execBpt (s : State) : Out := finishReg s (.error (.trap .bpt))

end Sys2Proof.Machine
end

