-- ==== Sys2Proof/Machine/RegExtend.lean ====
section
/-!
DEFINITION. RegisterCPU format 7: extend, multiply, divide, and the unimplemented opcodes (R385 to R402).
-/
namespace Sys2Proof.Machine

/-- `MOVMi` (R386): unimplemented, before any operand is resolved. -/
def execMovm (_i : Size) (_g1 _g2 : Gen) (s : State) : Out :=
  finishReg s (.error (.fatal (.notImplementedOpcode .movm)))

/-- `CMPMi` (R387): unimplemented, before any operand is resolved. -/
def execCmpm (_i : Size) (_g1 _g2 : Gen) (s : State) : Out :=
  finishReg s (.error (.fatal (.notImplementedOpcode .cmpm)))

/-- `INSSi` (R388): unimplemented, before any operand is resolved. -/
def execInss (_i : Size) (_g1 _g2 : Gen) (s : State) : Out :=
  finishReg s (.error (.fatal (.notImplementedOpcode .inss)))

/-- `EXTSi` (R389): unimplemented, before any operand is resolved. -/
def execExts (_i : Size) (_g1 _g2 : Gen) (s : State) : Out :=
  finishReg s (.error (.fatal (.notImplementedOpcode .exts)))

/-- `MOVXBW` (R390). -/
def execMovxbw (i : Size) (g1 g2 : Gen) (s : State) : Out :=
  finishReg s (guarded (i == .b) (s.reg.writeTwo .b .w g1 g2 (lenTwo 3 g1 g2) fun p a =>
    (narrow .w (signedOf .b a), p)))

/-- `MOVZBW` (R391). -/
def execMovzbw (i : Size) (g1 g2 : Gen) (s : State) : Out :=
  finishReg s (guarded (i == .b) (s.reg.writeTwo .b .w g1 g2 (lenTwo 3 g1 g2) fun p a =>
    (a, p)))

/-- `MOVZiD` (R392). -/
def execMovzid (i : Size) (g1 g2 : Gen) (s : State) : Out :=
  finishReg s (guarded (i == .b || i == .w) (s.reg.writeTwo i .d g1 g2 (lenTwo 3 g1 g2) fun p a =>
    (a, p)))

/-- `MOVXiD` (R393). -/
def execMovxid (i : Size) (g1 g2 : Gen) (s : State) : Out :=
  finishReg s (guarded (i == .b || i == .w) (s.reg.writeTwo i .d g1 g2 (lenTwo 3 g1 g2) fun p a =>
    (narrow .d (signedOf i a), p)))

/-- `MULi` (R394): the low half of the product. -/
def execMul (i : Size) (g1 g2 : Gen) (s : State) : Out :=
  finishReg s (guarded (sized i) (s.reg.rmwTwo i i g1 g2 (lenTwo 3 g1 g2) fun p a b => (lowBits i (b * a), p)))

/-- `MEIi` (R395): unimplemented, before any operand is resolved. -/
def execMei (_i : Size) (_g1 _g2 : Gen) (s : State) : Out :=
  finishReg s (.error (.fatal (.notImplementedOpcode .mei)))

/-- `DEIi` (R396): unimplemented, before any operand is resolved. -/
def execDei (_i : Size) (_g1 _g2 : Gen) (s : State) : Out :=
  finishReg s (.error (.fatal (.notImplementedOpcode .dei)))

/-- `QUOi` (R397, R401). -/
def execQuo (i : Size) (g1 g2 : Gen) (s : State) : Out :=
  finishReg s (guarded (sized i) (s.reg.divTwo i g1 g2 quoOf))

/-- `REMi` (R398, R401). -/
def execRem (i : Size) (g1 g2 : Gen) (s : State) : Out :=
  finishReg s (guarded (sized i) (s.reg.divTwo i g1 g2 remOf))

/-- `MODi` (R399, R401). -/
def execModI (i : Size) (g1 g2 : Gen) (s : State) : Out :=
  finishReg s (guarded (sized i) (s.reg.divTwo i g1 g2 modOf))

/-- `DIVi` (R400, R401). -/
def execDivI (i : Size) (g1 g2 : Gen) (s : State) : Out :=
  finishReg s (guarded (sized i) (s.reg.divTwo i g1 g2 divOf))

end Sys2Proof.Machine
end

