-- ==== Sys2Proof/Machine/RegQuick.lean ====
section
/-!
DEFINITION. RegisterCPU format 2: quick and processor-register instructions (R311 to R318).
-/
namespace Sys2Proof.Machine

/-- `ADDQi` (R311). -/
def execAddq (quick : BitVec 4) (i : Size) (g : Gen) (s : State) : Out :=
  finishReg s (guarded (sized i) (s.reg.rmwOne i g (lenOne 2 g) fun p a =>
    let res := addFlags i a (lowBits i (quickValue quick)) false
    (res.val, setCF p res.c res.f)))

/-- `CMPQi` (R312): the quick value is the first operand. -/
def execCmpq (quick : BitVec 4) (i : Size) (g : Gen) (s : State) : Out :=
  finishReg s (guarded (sized i) (s.reg.readOne i g fun c b =>
    (c.withPsr (cmpFlags i (lowBits i (quickValue quick)) b c.psr)).advance (lenOne 2 g)))

/-- `SPRi` (R313): after the operand is resolved, the code, then the privilege, then the operand class (R424). -/
def execSpr (code : BitVec 4) (i : Size) (g : Gen) (s : State) : Out :=
  finishReg s (guarded (sized i) (do
    let o ← s.reg.resolve g
    let p ← s.reg.procCheck code
    let d ← asDest o
    return (s.reg.destWrite i d (lowBits i (s.reg.procRead p))).advance (lenOne 2 g)))

/-- `Scondi` (R314). -/
def execScond (c : Cond) (i : Size) (g : Gen) (s : State) : Out :=
  finishReg s (guarded (sized i) (s.reg.writeOne i g (lenOne 2 g) (if condTrue c s.reg.psr then 1 else 0)))

/-- `ACBi` (R315): the branch is taken when the truncated result is not zero. -/
def execAcb (quick : BitVec 4) (i : Size) (g : Gen) (disp : Disp) (s : State) : Out :=
  finishReg s (guarded (sized i) (do
    let o ← s.reg.resolve g
    let d ← asDest o
    let r := lowBits i (s.reg.destValue i d + quickValue quick)
    let c := s.reg.destUpdate i d r
    return (if r = 0 then c.advance (lenOne 2 g + disp.len) else c.goto (s.reg.pc + disp.value))))

/-- `MOVQi` (R317). -/
def execMovq (quick : BitVec 4) (i : Size) (g : Gen) (s : State) : Out :=
  finishReg s (guarded (sized i) (s.reg.writeOne i g (lenOne 2 g) (lowBits i (quickValue quick))))

/-- `LPRi` (R318): the privilege test comes before the source is read. -/
def execLpr (code : BitVec 4) (i : Size) (g : Gen) (s : State) : Out :=
  finishReg s (guarded (sized i) (do
    let o ← s.reg.resolve g
    let p ← s.reg.procCheck code
    return ((s.reg.afterSource i o).procWrite p i (s.reg.srcValue i o)).advance (lenOne 2 g)))

end Sys2Proof.Machine
end

