-- ==== Sys2Proof/Machine/RegShiftBit.lean ====
section
/-!
DEFINITION. RegisterCPU format 6: shifts, bits, unary (R361 to R378).
-/
namespace Sys2Proof.Machine

/-- `ROTi` (R362, R363): the count is one byte. -/
def execRot (i : Size) (g1 g2 : Gen) (s : State) : Out :=
  finishReg s (guarded (sized i) (s.reg.rmwTwo .b i g1 g2 (lenTwo 3 g1 g2) fun p a b => (rotate i (countOf a) b, p)))

/-- `ASHi` (R364, R363): the count is one byte. -/
def execAsh (i : Size) (g1 g2 : Gen) (s : State) : Out :=
  finishReg s (guarded (sized i) (s.reg.rmwTwo .b i g1 g2 (lenTwo 3 g1 g2) fun p a b => (arithShift i (countOf a) b, p)))

/-- `CBITi` (R369). -/
def execCbit (i : Size) (g1 g2 : Gen) (s : State) : Out :=
  finishReg s (guarded (sized i) (s.reg.bitTwo i g1 g2 (lenTwo 3 g1 g2) fun c p _ => c.withBit p false))

/-- `CBITIi` (R371): the interlock has no effect of its own. -/
def execCbiti (i : Size) (g1 g2 : Gen) (s : State) : Out :=
  finishReg s (guarded (sized i) (s.reg.bitTwo i g1 g2 (lenTwo 3 g1 g2) fun c p _ => c.withBit p false))

/-- `LSHi` (R365, R363): the count is one byte. -/
def execLsh (i : Size) (g1 g2 : Gen) (s : State) : Out :=
  finishReg s (guarded (sized i) (s.reg.rmwTwo .b i g1 g2 (lenTwo 3 g1 g2) fun p a b => (logicShift i (countOf a) b, p)))

/-- `SBITi` (R368). -/
def execSbit (i : Size) (g1 g2 : Gen) (s : State) : Out :=
  finishReg s (guarded (sized i) (s.reg.bitTwo i g1 g2 (lenTwo 3 g1 g2) fun c p _ => c.withBit p true))

/-- `SBITIi` (R370): the interlock has no effect of its own. -/
def execSbiti (i : Size) (g1 g2 : Gen) (s : State) : Out :=
  finishReg s (guarded (sized i) (s.reg.bitTwo i g1 g2 (lenTwo 3 g1 g2) fun c p _ => c.withBit p true))

/-- `NEGi` (R373). -/
def execNeg (i : Size) (g1 g2 : Gen) (s : State) : Out :=
  finishReg s (guarded (sized i) (s.reg.writeTwo i i g1 g2 (lenTwo 3 g1 g2) fun p a =>
    let res := subFlags i 0 a false
    (res.val, setCF p res.c res.f)))

/-- `NOTi` (R374): only bit 0 is inverted. -/
def execNotI (i : Size) (g1 g2 : Gen) (s : State) : Out :=
  finishReg s (guarded (sized i) (s.reg.writeTwo i i g1 g2 (lenTwo 3 g1 g2) fun p a =>
    (a ^^^ 1, p)))

/-- `SUBPi` (R378): unimplemented, before any operand is resolved. -/
def execSubp (_i : Size) (_g1 _g2 : Gen) (s : State) : Out :=
  finishReg s (.error (.fatal (.notImplementedOpcode .subp)))

/-- `ABSi` (R375): `C` is kept. -/
def execAbsI (i : Size) (g1 g2 : Gen) (s : State) : Out :=
  finishReg s (guarded (sized i) (s.reg.writeTwo i i g1 g2 (lenTwo 3 g1 g2) fun p a =>
    let res := subFlags i 0 a false
    if signedOf i a < 0 then (res.val, setPsrBit p bitF res.f) else (a, setPsrBit p bitF false)))

/-- `COMi` (R376). -/
def execCom (i : Size) (g1 g2 : Gen) (s : State) : Out :=
  finishReg s (guarded (sized i) (s.reg.writeTwo i i g1 g2 (lenTwo 3 g1 g2) fun p a =>
    (lowBits i (~~~a), p)))

/-- `IBITi` (R372). -/
def execIbit (i : Size) (g1 g2 : Gen) (s : State) : Out :=
  finishReg s (guarded (sized i) (s.reg.bitTwo i g1 g2 (lenTwo 3 g1 g2) fun c p old => c.withBit p (!old)))

/-- `ADDPi` (R377): unimplemented, before any operand is resolved. -/
def execAddp (_i : Size) (_g1 _g2 : Gen) (s : State) : Out :=
  finishReg s (.error (.fatal (.notImplementedOpcode .addp)))

end Sys2Proof.Machine
end

