-- ==== Sys2Proof/Machine/RegSingle.lean ====
section
/-!
DEFINITION. RegisterCPU format 3: single operand control (R321 to R327).
-/
namespace Sys2Proof.Machine

/-- `CXPD` (R321): the descriptor is the double word at the operand's address. -/
def execCxpd (i : Size) (g : Gen) (s : State) : Out :=
  finishReg s (guarded (sized i) (s.reg.addrOne g fun ea =>
    s.reg.callDescriptor (s.reg.read32 ea) (s.reg.pc + BitVec.ofNat 32 (lenOne 2 g))))

/-- The body of `BICPSR` and `BISPSR` (R322, R324): the byte form touches the low byte only, the word form is privileged,
the double word form is undefined. -/
def psrUpdate (i : Size) (g : Gen) (f : Word → Word → Word) (s : State) : Out :=
  match i with
  | .b => finishReg s (s.reg.readOne .b g fun c v =>
      (c.withPsr (setPsrLow c.psr ((f c.psr (v.setWidth 16)).setWidth 8))).advance (lenOne 2 g))
  | .w => finishReg s (do
      let o ← s.reg.resolve g
      s.reg.privileged (.ok (((s.reg.afterSource .w o).withPsr
        (f s.reg.psr ((s.reg.srcValue .w o).setWidth 16))).advance (lenOne 2 g))))
  | .undef => finishReg s undefined
  | .d => finishReg s undefined

/-- `BICPSRi` (R322). -/
def execBicpsr (i : Size) (g : Gen) (s : State) : Out := psrUpdate i g (fun p v => p &&& ~~~v) s

/-- `JUMP` (R323). -/
def execJump (i : Size) (g : Gen) (s : State) : Out :=
  finishReg s (guarded (sized i) (s.reg.addrOne g fun ea => s.reg.goto ea))

/-- `BISPSRi` (R324). -/
def execBispsr (i : Size) (g : Gen) (s : State) : Out := psrUpdate i g (fun p v => p ||| v) s

/-- `ADJSPi` (R325): a top-of-stack operand is popped first. -/
def execAdjsp (i : Size) (g : Gen) (s : State) : Out :=
  finishReg s (guarded (sized i) (s.reg.readOne i g fun c v =>
    (c.setSp (c.sp - BitVec.ofInt 32 (signedOf i v))).advance (lenOne 2 g)))

/-- `JSR` (R326): the address is computed before the push. -/
def execJsr (i : Size) (g : Gen) (s : State) : Out :=
  finishReg s (guarded (sized i) (s.reg.addrOne g fun ea =>
    (s.reg.push32 (s.reg.pc + BitVec.ofNat 32 (lenOne 2 g))).goto ea))

/-- `CASEi` (R327): relative to the instruction itself. -/
def execCaseI (i : Size) (g : Gen) (s : State) : Out :=
  finishReg s (guarded (sized i) (s.reg.readOne i g fun c v => c.goto (c.pc + BitVec.ofInt 32 (signedOf i v))))

/-- The undefined opcodes of format 3 (R133, R320, R425 (b)). -/
def execUndefinedF3 (_gen : Fin 32) (_op : Fin 16) (_i : Size) (s : State) : Out := finishReg s undefined

end Sys2Proof.Machine
end

