-- ==== Sys2Proof/Machine/RegString.lean ====
section
/-!
DEFINITION. RegisterCPU format 5: strings and `SETCFG` (R355 to R360).
-/
namespace Sys2Proof.Machine

/-- `MOVSi` (R357). -/
def execMovs (opts : BitVec 4) (i : Size) (s : State) : Out :=
  finishReg s (guarded (stringDefined opts i)
    (.ok (s.reg.stringStep { stores := true, compares := false, movesDst := true } opts i)))

/-- `CMPSi` (R358). -/
def execCmps (opts : BitVec 4) (i : Size) (s : State) : Out :=
  finishReg s (guarded (stringDefined opts i)
    (.ok (s.reg.stringStep { stores := false, compares := true, movesDst := true } opts i)))

/-- `SETCFG` (R360): privileged. -/
def execSetcfg (short : BitVec 4) (i : Size) (s : State) : Out :=
  finishReg s (guarded (sized i) (s.reg.privileged (.ok ({ s.reg with cfg := short }.advance 3))))

/-- `SKPSi` (R359). -/
def execSkps (opts : BitVec 4) (i : Size) (s : State) : Out :=
  finishReg s (guarded (stringDefined opts i)
    (.ok (s.reg.stringStep { stores := false, compares := false, movesDst := false } opts i)))

end Sys2Proof.Machine
end

