-- ==== Sys2Proof/Machine/RegUndefined.lean ====
section
/-!
DEFINITION. RegisterCPU byte sequences with no defined instruction (R133).
-/
namespace Sys2Proof.Machine

/-- The row `UNDEFINED.B10` (R133, R425): traps as undefined. -/
def execUndefinedB10 (_u : UndefB10) (s : State) : Out := finishReg s undefined

end Sys2Proof.Machine
end

