-- ==== Sys2Proof/Machine/StackAlu.lean ====
section
/-!
DEFINITION. StackCPU ALU class: the eight functions (R162 to R169) over the five micro-steps of R160.
-/
namespace Sys2Proof.Machine

/-- `ALU.T` (R162). -/
def execAluT (o : AluOpts) (s : State) : Out := aluClass s .t o

/-- `ALU.AND` (R163). -/
def execAluAnd (o : AluOpts) (s : State) : Out := aluClass s .and o

/-- `ALU.SUB` (R164). -/
def execAluSub (o : AluOpts) (s : State) : Out := aluClass s .sub o

/-- `ALU.OR` (R165). -/
def execAluOr (o : AluOpts) (s : State) : Out := aluClass s .or o

/-- `ALU.ADD` (R166). -/
def execAluAdd (o : AluOpts) (s : State) : Out := aluClass s .add o

/-- `ALU.XOR` (R167). -/
def execAluXor (o : AluOpts) (s : State) : Out := aluClass s .xor o

/-- `ALU.SUBY` (R168). -/
def execAluSuby (o : AluOpts) (s : State) : Out := aluClass s .suby o

/-- `ALU.Y` (R169). -/
def execAluY (o : AluOpts) (s : State) : Out := aluClass s .y o

end Sys2Proof.Machine
end

