-- ==== Sys2Proof/Machine/StackControl.lean ====
section
/-!
DEFINITION. StackCPU CALL and the three branches (R146 to R151).
-/
namespace Sys2Proof.Machine

/-- `CALL` (R146): the saved pair is pushed and `pc` is the 15-bit target; `carry` is kept. -/
def execSCall (target : BitVec 15) (s : State) : Out := nextStack s (s.stack.callTo (target.setWidth 16))

/-- `IF` (R149): `t` is consumed; the branch is taken when it was zero. -/
def execSIf (addr : BitVec 12) (s : State) : Out :=
  nextStack s { { s.stack with t := s.stack.n }.dPopN with
    pc := if s.stack.t = 0 then s.stack.pageTarget addr else s.stack.pc }

/-- `LOOP` (R150): a nonzero `i` is decremented and the branch taken; a zero `i` is dropped. -/
def execSLoop (addr : BitVec 12) (s : State) : Out :=
  nextStack s (if s.stack.i = 0 then s.stack.rPop
    else { s.stack with i := s.stack.i - 1, pc := s.stack.pageTarget addr })

/-- `ELSE` (R151): the branch is always taken. -/
def execSElse (addr : BitVec 12) (s : State) : Out := nextStack s { s.stack with pc := s.stack.pageTarget addr }

end Sys2Proof.Machine
end

