-- ==== Sys2Proof/Machine/StackLli.lean ====
section
/-!
DEFINITION. StackCPU literal, local and internal fetch and store (R196 to R205).
-/
namespace Sys2Proof.Machine

/-- `LFETCH` (R196): the local window is the first 32 program words. -/
def execLfetch (op : AluOp) (tn ret : Bool) (a5 : BitVec 5) (s : State) : Out :=
  nextStack s (s.stack.fetchWith op tn ret (s.stack.progRead (a5.setWidth 16)))

/-- `IFETCH` (R197); `sa` has no effect. -/
def execIfetch (op : AluOp) (tn ret _sa : Bool) (slot : Fin 16) (s : State) : Out :=
  nextStack s (s.stack.fetchWith op tn ret (s.stack.intRead slot))

/-- `LITS` (R198). -/
def execLits (op : AluOp) (tn ret : Bool) (a5 : BitVec 5) (s : State) : Out :=
  nextStack s (s.stack.fetchWith op tn ret (a5.setWidth 16))

/-- `LITL` (R199): the word at `pc`, and `pc` moved past it; `a5` is ignored. -/
def execLitl (op : AluOp) (tn ret : Bool) (_a5 : BitVec 5) (s : State) : Out :=
  nextStack s ({ s.stack with pc := s.stack.pc + 1 }.fetchWith op tn ret (s.stack.progRead s.stack.pc))

/-- `LSTORE` (R201). -/
def execLstore (op : AluOp) (tn ret : Bool) (a5 : BitVec 5) (s : State) : Out :=
  nextStack s ((s.stack.progWrite (a5.setWidth 16) s.stack.t).storeWith op tn ret s.stack.n)

/-- `ISTORE` without SA (R202). -/
def execIstore (op : AluOp) (tn ret : Bool) (slot : Fin 16) (s : State) : Out :=
  nextStack s ((s.stack.intWrite slot s.stack.t).storeWith op tn ret s.stack.n)

/-- `ISTORE` with SA (R203): TIMES begins, then the slot is written. -/
def execIstoreSa (op : AluOp) (tn ret : Bool) (slot : Fin 16) (s : State) : Out :=
  nextStack s ((s.stack.timesBegin.intWrite slot s.stack.t).storeWith op tn ret s.stack.n)

/-- `ISWAP` (R204): the old slot value is the second operand; `sa` has no effect. -/
def execIswap (op : AluOp) (tn ret _sa : Bool) (slot : Fin 16) (s : State) : Out :=
  nextStack s ((s.stack.intWrite slot s.stack.t).storeWith op tn ret (s.stack.intRead slot))

/-- The reserved store encoding (R205): refused. -/
def execLliReserved (_op : AluOp) (_tn _ret : Bool) (_a5 : BitVec 5) (_s : State) : Out := .refused .reservedEncoding

end Sys2Proof.Machine
end

