-- ==== Sys2Proof/Machine/StackMem.lean ====
section
/-!
DEFINITION. StackCPU memory fetch and store (R232 to R236). The three general encodings of each do not differ (R230).
-/
namespace Sys2Proof.Machine

/-- `MFETCH`, `ios` = 0 (R233); `tn` selects the form, the literal is ignored. -/
def execMfetch0 (op : AluOp) (tn ret : Bool) (_lit5 : BitVec 5) (s : State) : Out :=
  nextStack s (s.stack.fetchMem op tn ret)

/-- `MFETCH`, `ios` = 1 (R233); `tn` selects the form, the literal is ignored. -/
def execMfetch1 (op : AluOp) (tn ret : Bool) (_lit5 : BitVec 5) (s : State) : Out :=
  nextStack s (s.stack.fetchMem op tn ret)

/-- `MFETCH`, `ios` = 2 (R233); `tn` selects the form, the literal is ignored. -/
def execMfetch2 (op : AluOp) (tn ret : Bool) (_lit5 : BitVec 5) (s : State) : Out :=
  nextStack s (s.stack.fetchMem op tn ret)

/-- `MFETCHX` (R232); `tn` is ignored. -/
def execMfetchx (op : AluOp) (_tn ret : Bool) (lit5 : BitVec 5) (s : State) : Out :=
  nextStack s (s.stack.fetchStep op ret lit5)

/-- `MSTORE`, `ios` = 0 (R236); `tn` selects the form, the literal is ignored. -/
def execMstore0 (op : AluOp) (tn ret : Bool) (_lit5 : BitVec 5) (s : State) : Out :=
  nextStack s (s.stack.storeMem op tn ret)

/-- `MSTORE`, `ios` = 1 (R236); `tn` selects the form, the literal is ignored. -/
def execMstore1 (op : AluOp) (tn ret : Bool) (_lit5 : BitVec 5) (s : State) : Out :=
  nextStack s (s.stack.storeMem op tn ret)

/-- `MSTORE`, `ios` = 2 (R236); `tn` selects the form, the literal is ignored. -/
def execMstore2 (op : AluOp) (tn ret : Bool) (_lit5 : BitVec 5) (s : State) : Out :=
  nextStack s (s.stack.storeMem op tn ret)

/-- `MSTOREX` (R235); `tn` is ignored. -/
def execMstorex (op : AluOp) (_tn ret : Bool) (lit5 : BitVec 5) (s : State) : Out :=
  nextStack s (s.stack.storeStep op ret lit5)

end Sys2Proof.Machine
end

