-- ==== Sys2Proof/Machine/Dispatch.lean ====
section
/-!
DEFINITION. One arm per instruction: the meaning it has (R144, R240).
-/
namespace Sys2Proof.Machine

def exec (i : Instr) (s : State) : Host.Outcome State Fault Refusal :=
  match i with
  | .sCall target => Sys2Proof.Machine.execSCall target s
  | .sIf addr => Sys2Proof.Machine.execSIf addr s
  | .sLoop addr => Sys2Proof.Machine.execSLoop addr s
  | .sElse addr => Sys2Proof.Machine.execSElse addr s
  | .aluT o => Sys2Proof.Machine.execAluT o s
  | .aluAnd o => Sys2Proof.Machine.execAluAnd o s
  | .aluSub o => Sys2Proof.Machine.execAluSub o s
  | .aluOr o => Sys2Proof.Machine.execAluOr o s
  | .aluAdd o => Sys2Proof.Machine.execAluAdd o s
  | .aluXor o => Sys2Proof.Machine.execAluXor o s
  | .aluSuby o => Sys2Proof.Machine.execAluSuby o s
  | .aluY o => Sys2Proof.Machine.execAluY o s
  | .lfetch op tn ret a5 => Sys2Proof.Machine.execLfetch op tn ret a5 s
  | .ifetch op tn ret sa slot => Sys2Proof.Machine.execIfetch op tn ret sa slot s
  | .lits op tn ret a5 => Sys2Proof.Machine.execLits op tn ret a5 s
  | .litl op tn ret a5 => Sys2Proof.Machine.execLitl op tn ret a5 s
  | .lstore op tn ret a5 => Sys2Proof.Machine.execLstore op tn ret a5 s
  | .istore op tn ret slot => Sys2Proof.Machine.execIstore op tn ret slot s
  | .istoreSa op tn ret slot => Sys2Proof.Machine.execIstoreSa op tn ret slot s
  | .iswap op tn ret sa slot => Sys2Proof.Machine.execIswap op tn ret sa slot s
  | .lliReserved op tn ret a5 => Sys2Proof.Machine.execLliReserved op tn ret a5 s
  | .mfetch0 op tn ret lit5 => Sys2Proof.Machine.execMfetch0 op tn ret lit5 s
  | .mfetch1 op tn ret lit5 => Sys2Proof.Machine.execMfetch1 op tn ret lit5 s
  | .mfetch2 op tn ret lit5 => Sys2Proof.Machine.execMfetch2 op tn ret lit5 s
  | .mfetchx op tn ret lit5 => Sys2Proof.Machine.execMfetchx op tn ret lit5 s
  | .mstore0 op tn ret lit5 => Sys2Proof.Machine.execMstore0 op tn ret lit5 s
  | .mstore1 op tn ret lit5 => Sys2Proof.Machine.execMstore1 op tn ret lit5 s
  | .mstore2 op tn ret lit5 => Sys2Proof.Machine.execMstore2 op tn ret lit5 s
  | .mstorex op tn ret lit5 => Sys2Proof.Machine.execMstorex op tn ret lit5 s
  | .beq d => Sys2Proof.Machine.execBeq d s
  | .bne d => Sys2Proof.Machine.execBne d s
  | .bcs d => Sys2Proof.Machine.execBcs d s
  | .bcc d => Sys2Proof.Machine.execBcc d s
  | .bhi d => Sys2Proof.Machine.execBhi d s
  | .bls d => Sys2Proof.Machine.execBls d s
  | .bgt d => Sys2Proof.Machine.execBgt d s
  | .ble d => Sys2Proof.Machine.execBle d s
  | .bfs d => Sys2Proof.Machine.execBfs d s
  | .bfc d => Sys2Proof.Machine.execBfc d s
  | .blo d => Sys2Proof.Machine.execBlo d s
  | .bhs d => Sys2Proof.Machine.execBhs d s
  | .blt d => Sys2Proof.Machine.execBlt d s
  | .bge d => Sys2Proof.Machine.execBge d s
  | .br d => Sys2Proof.Machine.execBr d s
  | .bn d => Sys2Proof.Machine.execBn d s
  | .bsr d => Sys2Proof.Machine.execBsr d s
  | .ret d => Sys2Proof.Machine.execRet d s
  | .cxp d => Sys2Proof.Machine.execCxp d s
  | .rxp d => Sys2Proof.Machine.execRxp d s
  | .rett d => Sys2Proof.Machine.execRett d s
  | .reti => Sys2Proof.Machine.execReti s
  | .save mask => Sys2Proof.Machine.execSave mask s
  | .restore mask => Sys2Proof.Machine.execRestore mask s
  | .enter mask d => Sys2Proof.Machine.execEnter mask d s
  | .exitI mask => Sys2Proof.Machine.execExitI mask s
  | .nop => Sys2Proof.Machine.execNop s
  | .wait => Sys2Proof.Machine.execWait s
  | .dia => Sys2Proof.Machine.execDia s
  | .flag => Sys2Proof.Machine.execFlag s
  | .svc => Sys2Proof.Machine.execSvc s
  | .bpt => Sys2Proof.Machine.execBpt s
  | .movs opts sz => Sys2Proof.Machine.execMovs opts sz s
  | .cmps opts sz => Sys2Proof.Machine.execCmps opts sz s
  | .setcfg short sz => Sys2Proof.Machine.execSetcfg short sz s
  | .skps opts sz => Sys2Proof.Machine.execSkps opts sz s
  | .rot sz g1 g2 => Sys2Proof.Machine.execRot sz g1 g2 s
  | .ash sz g1 g2 => Sys2Proof.Machine.execAsh sz g1 g2 s
  | .cbit sz g1 g2 => Sys2Proof.Machine.execCbit sz g1 g2 s
  | .cbiti sz g1 g2 => Sys2Proof.Machine.execCbiti sz g1 g2 s
  | .lsh sz g1 g2 => Sys2Proof.Machine.execLsh sz g1 g2 s
  | .sbit sz g1 g2 => Sys2Proof.Machine.execSbit sz g1 g2 s
  | .sbiti sz g1 g2 => Sys2Proof.Machine.execSbiti sz g1 g2 s
  | .neg sz g1 g2 => Sys2Proof.Machine.execNeg sz g1 g2 s
  | .notI sz g1 g2 => Sys2Proof.Machine.execNotI sz g1 g2 s
  | .subp sz g1 g2 => Sys2Proof.Machine.execSubp sz g1 g2 s
  | .absI sz g1 g2 => Sys2Proof.Machine.execAbsI sz g1 g2 s
  | .com sz g1 g2 => Sys2Proof.Machine.execCom sz g1 g2 s
  | .ibit sz g1 g2 => Sys2Proof.Machine.execIbit sz g1 g2 s
  | .addp sz g1 g2 => Sys2Proof.Machine.execAddp sz g1 g2 s
  | .movm sz g1 g2 => Sys2Proof.Machine.execMovm sz g1 g2 s
  | .cmpm sz g1 g2 => Sys2Proof.Machine.execCmpm sz g1 g2 s
  | .inss sz g1 g2 => Sys2Proof.Machine.execInss sz g1 g2 s
  | .exts sz g1 g2 => Sys2Proof.Machine.execExts sz g1 g2 s
  | .movxbw sz g1 g2 => Sys2Proof.Machine.execMovxbw sz g1 g2 s
  | .movzbw sz g1 g2 => Sys2Proof.Machine.execMovzbw sz g1 g2 s
  | .movzid sz g1 g2 => Sys2Proof.Machine.execMovzid sz g1 g2 s
  | .movxid sz g1 g2 => Sys2Proof.Machine.execMovxid sz g1 g2 s
  | .mul sz g1 g2 => Sys2Proof.Machine.execMul sz g1 g2 s
  | .mei sz g1 g2 => Sys2Proof.Machine.execMei sz g1 g2 s
  | .dei sz g1 g2 => Sys2Proof.Machine.execDei sz g1 g2 s
  | .quo sz g1 g2 => Sys2Proof.Machine.execQuo sz g1 g2 s
  | .rem sz g1 g2 => Sys2Proof.Machine.execRem sz g1 g2 s
  | .modI sz g1 g2 => Sys2Proof.Machine.execModI sz g1 g2 s
  | .divI sz g1 g2 => Sys2Proof.Machine.execDivI sz g1 g2 s
  | .undefinedB10 u => Sys2Proof.Machine.execUndefinedB10 u s
  | .cxpd sz g => Sys2Proof.Machine.execCxpd sz g s
  | .bicpsr sz g => Sys2Proof.Machine.execBicpsr sz g s
  | .jump sz g => Sys2Proof.Machine.execJump sz g s
  | .bispsr sz g => Sys2Proof.Machine.execBispsr sz g s
  | .adjsp sz g => Sys2Proof.Machine.execAdjsp sz g s
  | .jsr sz g => Sys2Proof.Machine.execJsr sz g s
  | .caseI sz g => Sys2Proof.Machine.execCaseI sz g s
  | .undefinedF3 gen op sz => Sys2Proof.Machine.execUndefinedF3 gen op sz s
  | .addq quick sz g => Sys2Proof.Machine.execAddq quick sz g s
  | .cmpq quick sz g => Sys2Proof.Machine.execCmpq quick sz g s
  | .spr procreg sz g => Sys2Proof.Machine.execSpr procreg sz g s
  | .scond c sz g => Sys2Proof.Machine.execScond c sz g s
  | .acb quick sz g d => Sys2Proof.Machine.execAcb quick sz g d s
  | .movq quick sz g => Sys2Proof.Machine.execMovq quick sz g s
  | .lpr procreg sz g => Sys2Proof.Machine.execLpr procreg sz g s
  | .add sz g1 g2 => Sys2Proof.Machine.execAdd sz g1 g2 s
  | .cmp sz g1 g2 => Sys2Proof.Machine.execCmp sz g1 g2 s
  | .bic sz g1 g2 => Sys2Proof.Machine.execBic sz g1 g2 s
  | .addc sz g1 g2 => Sys2Proof.Machine.execAddc sz g1 g2 s
  | .mov sz g1 g2 => Sys2Proof.Machine.execMov sz g1 g2 s
  | .orI sz g1 g2 => Sys2Proof.Machine.execOrI sz g1 g2 s
  | .sub sz g1 g2 => Sys2Proof.Machine.execSub sz g1 g2 s
  | .addr sz g1 g2 => Sys2Proof.Machine.execAddr sz g1 g2 s
  | .andI sz g1 g2 => Sys2Proof.Machine.execAndI sz g1 g2 s
  | .subc sz g1 g2 => Sys2Proof.Machine.execSubc sz g1 g2 s
  | .tbit sz g1 g2 => Sys2Proof.Machine.execTbit sz g1 g2 s
  | .xorI sz g1 g2 => Sys2Proof.Machine.execXorI sz g1 g2 s

end Sys2Proof.Machine
end

