-- ==== Sys2Proof/Machine/Unimplemented.lean ====
section
/-!
DEFINITION. The parameter `REGCPU_UNIMPLEMENTED` (R10, R424 step 1, R440): which instruction words are words of which
mnemonic, and the check of a step against the set.
-/
namespace Sys2Proof.Machine

/-- The mnemonic, where its size and options are defined; an undefined pattern is no word of it (R424 step 1, log 21). -/
def named (ok : Bool) (m : RegMnemonic) : Option RegMnemonic := if ok then some m else none

/-- The RegisterCPU mnemonic of an instruction; StackCPU's words and undefined words have none. -/
def mnemonicOf : Instr → Option RegMnemonic
  | .sCall _ => none
  | .sIf _ => none
  | .sLoop _ => none
  | .sElse _ => none
  | .aluT _ => none
  | .aluAnd _ => none
  | .aluSub _ => none
  | .aluOr _ => none
  | .aluAdd _ => none
  | .aluXor _ => none
  | .aluSuby _ => none
  | .aluY _ => none
  | .lfetch _ _ _ _ => none
  | .ifetch _ _ _ _ _ => none
  | .lits _ _ _ _ => none
  | .litl _ _ _ _ => none
  | .lstore _ _ _ _ => none
  | .istore _ _ _ _ => none
  | .istoreSa _ _ _ _ => none
  | .iswap _ _ _ _ _ => none
  | .lliReserved _ _ _ _ => none
  | .mfetch0 _ _ _ _ => none
  | .mfetch1 _ _ _ _ => none
  | .mfetch2 _ _ _ _ => none
  | .mfetchx _ _ _ _ => none
  | .mstore0 _ _ _ _ => none
  | .mstore1 _ _ _ _ => none
  | .mstore2 _ _ _ _ => none
  | .mstorex _ _ _ _ => none
  | .beq _ => some .beq
  | .bne _ => some .bne
  | .bcs _ => some .bcs
  | .bcc _ => some .bcc
  | .bhi _ => some .bhi
  | .bls _ => some .bls
  | .bgt _ => some .bgt
  | .ble _ => some .ble
  | .bfs _ => some .bfs
  | .bfc _ => some .bfc
  | .blo _ => some .blo
  | .bhs _ => some .bhs
  | .blt _ => some .blt
  | .bge _ => some .bge
  | .br _ => some .br
  | .bn _ => some .bn
  | .bsr _ => some .bsr
  | .ret _ => some .ret
  | .cxp _ => some .cxp
  | .rxp _ => some .rxp
  | .rett _ => some .rett
  | .reti => some .reti
  | .save _ => some .save
  | .restore _ => some .restore
  | .enter _ _ => some .enter
  | .exitI _ => some .exitI
  | .nop => some .nop
  | .wait => some .wait
  | .dia => some .dia
  | .flag => some .flag
  | .svc => some .svc
  | .bpt => some .bpt
  | .movs opts i => named (stringDefined opts i) .movs
  | .cmps opts i => named (stringDefined opts i) .cmps
  | .setcfg _ i => named (sized i) .setcfg
  | .skps opts i => named (stringDefined opts i) .skps
  | .rot i _ _ => named (sized i) .rot
  | .ash i _ _ => named (sized i) .ash
  | .cbit i _ _ => named (sized i) .cbit
  | .cbiti i _ _ => named (sized i) .cbiti
  | .lsh i _ _ => named (sized i) .lsh
  | .sbit i _ _ => named (sized i) .sbit
  | .sbiti i _ _ => named (sized i) .sbiti
  | .neg i _ _ => named (sized i) .neg
  | .notI i _ _ => named (sized i) .notI
  | .subp i _ _ => named (sized i) .subp
  | .absI i _ _ => named (sized i) .absI
  | .com i _ _ => named (sized i) .com
  | .ibit i _ _ => named (sized i) .ibit
  | .addp i _ _ => named (sized i) .addp
  | .movm i _ _ => named (sized i) .movm
  | .cmpm i _ _ => named (sized i) .cmpm
  | .inss i _ _ => named (sized i) .inss
  | .exts i _ _ => named (sized i) .exts
  | .movxbw i _ _ => named (i == .b) .movxbw
  | .movzbw i _ _ => named (i == .b) .movzbw
  | .movzid i _ _ => named (i == .b || i == .w) .movzid
  | .movxid i _ _ => named (i == .b || i == .w) .movxid
  | .mul i _ _ => named (sized i) .mul
  | .mei i _ _ => named (sized i) .mei
  | .dei i _ _ => named (sized i) .dei
  | .quo i _ _ => named (sized i) .quo
  | .rem i _ _ => named (sized i) .rem
  | .modI i _ _ => named (sized i) .modI
  | .divI i _ _ => named (sized i) .divI
  | .undefinedB10 _ => none
  | .cxpd i _ => named (sized i) .cxpd
  | .bicpsr i _ => named (i == .b || i == .w) .bicpsr
  | .jump i _ => named (sized i) .jump
  | .bispsr i _ => named (i == .b || i == .w) .bispsr
  | .adjsp i _ => named (sized i) .adjsp
  | .jsr i _ => named (sized i) .jsr
  | .caseI i _ => named (sized i) .caseI
  | .undefinedF3 _ _ _ => none
  | .addq _ i _ => named (sized i) .addq
  | .cmpq _ i _ => named (sized i) .cmpq
  | .spr _ i _ => named (sized i) .spr
  | .scond _ i _ => named (sized i) .scond
  | .acb _ i _ _ => named (sized i) .acb
  | .movq _ i _ => named (sized i) .movq
  | .lpr _ i _ => named (sized i) .lpr
  | .add i _ _ => named (sized i) .add
  | .cmp i _ _ => named (sized i) .cmp
  | .bic i _ _ => named (sized i) .bic
  | .addc i _ _ => named (sized i) .addc
  | .mov i _ _ => named (sized i) .mov
  | .orI i _ _ => named (sized i) .orI
  | .sub i _ _ => named (sized i) .sub
  | .addr i _ _ => named (i == .d) .addr
  | .andI i _ _ => named (sized i) .andI
  | .subc i _ _ => named (sized i) .subc
  | .tbit i _ _ => named (sized i) .tbit
  | .xorI i _ _ => named (sized i) .xorI

/-- The mnemonic of the instruction, where the set has it: the step then ends in `Fatal(NotImplemented)` (R440). -/
def State.missing (s : State) (i : Instr) : Option RegMnemonic :=
  (mnemonicOf i).filter fun m => s.par.unimplemented.contains m

end Sys2Proof.Machine
end

