-- ==== Sys2Proof/Machine/Step.lean ====
section
/-!
DEFINITION. One step of the machine: the host's actions, then one step of the core whose turn it is (R140, R240), and how
an instruction is placed where the next step fetches it.
-/
namespace Sys2Proof.Machine

/-- One StackCPU step (R140): the interrupt and TIMES phases, the fetch, the advance of `pc`, the instruction. -/
def stackStep (s : State) : Out :=
  exec (decodeWord (s.stack.fetched s.par.ieMask)) { s with stack := s.stack.afterFetch s.par.ieMask }

/-- One RegisterCPU step (R240): decode from the bytes at `pc`, the check against `REGCPU_UNIMPLEMENTED` (R424 step 1), then
the instruction; `pc` still addresses its first byte. -/
def regStep (s : State) : Out :=
  match decodeBytes s.reg.fetched with
  | .ok (i, _) =>
    match s.missing i with
    | some m => .fault (.notImplementedOpcode m)
    | none => exec i s
  | .error e => .refused (.undecodable e)

/-- One step of the core whose turn it is. A `Fatal` or `Refuse` of it (R14) ends the run of the whole State, the other core's
too (DESIGN CHOICE, log 23). -/
def coreStep (s : State) : Out :=
  match s.turn with
  | .stack => stackStep s
  | .reg => regStep s

/-- One step: what the host does before it (log 2), then one step of one core (log 1). -/
def step (s : State) : Host.Outcome State Fault Refusal := coreStep (hostPhase s)

/-- The StackCPU word stored where the next step fetches, and 0 in the word after it, which `LITL` reads. -/
def placeWord (ieMask : BitVec 5) (c : StackCpu) (w : Word) : StackCpu :=
  let a := (c.beforeFetch ieMask).pc
  (c.progWrite (a + 1) 0).progWrite a w

/-- The instruction of a table number stored where the next step fetches it: its core gets the turn and the host does
nothing before that step (log 9, log 10). -/
def State.withFetchWord (s : State) (nbits w : Nat) : State :=
  if tableIsStack nbits w then
    { s with stack := placeWord s.par.ieMask s.stack (BitVec.ofNat 16 w), turn := .stack, script := [] :: s.script }
  else
    { s with reg := s.reg.putBytes s.reg.pc (tableBytes (w % 2 ^ nbits) maxBytes), turn := .reg, script := [] :: s.script }

end Sys2Proof.Machine
end

