-- ==== Sys2Proof/Machine/RunLoop.lean ====
section
/-!
DEFINITION. The run-for-N-cycles entry point of each core (R13) and the StackCPU cycle budget (R144, R194, R466). Timing only:
no meaning reads a cycle count (log 19).
-/
namespace Sys2Proof.Machine

/-- What a dispatched word takes from the budget (R466). -/
def stackCost (ir : Word) : Nat :=
  match bits ir.toNat 15 12, bits ir.toNat 8 7 with
  | 12, 1 => 1
  | 12, 2 => 1
  | 12, _ => 2
  | 13, 0 => 2
  | 14, _ => 2
  | 15, _ => 2
  | _, _ => 1

/-- The cost of the next StackCPU step; interrupt service costs nothing extra (R466). -/
def stackStepCost (s : State) : Nat := stackCost (s.stack.fetched s.par.ieMask)

/-- The cost of a RegisterCPU step: the spec gives no cycle counts (R466), so a step counts 1 (DESIGN CHOICE, log 19). -/
def regStepCost (_s : State) : Nat := 1

/-- The cost of the next step of a core. -/
def stepCost (core : CoreId) (s : State) : Nat :=
  match core with
  | .stack => stackStepCost s
  | .reg => regStepCost s

/-- One step of the core that the host runs, after the host's batch; `turn` plays no part in a run (R13). -/
def runStep (core : CoreId) (s : State) : Out :=
  match core with
  | .stack => stackStep s
  | .reg => regStep s

/-- At most `fuel` steps of one core, the budget looked at between two of them (R466). -/
def runBudget (core : CoreId) : Nat → Nat → State → Out
  | 0, _, s => .next s
  | fuel + 1, budget, s =>
    if budget = 0 then .next s
    else match runStep core (hostPhase s) with
      | .next t => runBudget core fuel (budget - stepCost core (hostPhase s)) t
      | .fault r => .fault r
      | .refused r => .refused r

/-- The run-for-N-cycles entry point of a core (R13, R144): a step costs at least 1, so the budget bounds the number of steps. -/
def runFor (core : CoreId) (budget : Nat) (s : State) : Out := runBudget core budget budget s

end Sys2Proof.Machine
end

