-- ==== Sys2Proof/Safety.lean ====
section
/-!
DEFINITION. The terms claims are stated in: what counts as a run that has not gone wrong (R14, R440, R441), what the privilege
mechanism protects (R430), where an instruction stores, and what it leaves alone.
-/
namespace Sys2Proof.Machine

/-! ## Runs -/

/-- The next step neither ends in `Fatal` nor in `Refuse` (R14). -/
def goesOn (s : State) : Prop := ∃ t, step s = .next t

/-- No step of the run from here goes wrong (R14, R441). -/
def neverWrong (s : State) : Prop := ∀ k, ∃ t, Sys2Proof.core.run k s = .next t

/-- The host does nothing before the next step, and it runs StackCPU. -/
abbrev stackNext (s : State) : Prop := s.script = [] ∧ s.turn = .stack

/-- The host does nothing before the next step, and it runs RegisterCPU. -/
abbrev regNext (s : State) : Prop := s.script = [] ∧ s.turn = .reg

/-! ## StackCPU -/

/-- The ALU-class instruction of a function (R162 to R169). -/
def aluInstr : AluOp → AluOpts → Instr
  | .t => .aluT
  | .and => .aluAnd
  | .sub => .aluSub
  | .or => .aluOr
  | .add => .aluAdd
  | .xor => .aluXor
  | .suby => .aluSuby
  | .y => .aluY

/-- The data-stack space after one word was written at a pointer: that word there, every other as before. -/
def WroteDs (before after : StackCpu) (p : Byte) (v : Word) : Prop :=
  ∀ x : Byte, after.dsRead x = if x = p then v else before.dsRead x

/-- The same of the return-stack space. -/
def WroteRs (before after : StackCpu) (p : Byte) (v : Word) : Prop :=
  ∀ x : Byte, after.rsRead x = if x = p then v else before.rsRead x

/-- `u` is `c` after the push that `tn` selects (R171, R191): `n` to the data stack, `t` to `n`. -/
def Pushed (c u : StackCpu) (tn : Bool) : Prop :=
  if tn then u.n = c.t ∧ u.k = c.k - 1 ∧ WroteDs c u c.k c.n else u.n = c.n ∧ u.k = c.k ∧ u.ds = c.ds

/-- `u` is `c` after the pop that `tn` selects (R192): the data stack is only read. -/
def Popped (c u : StackCpu) (tn : Bool) : Prop :=
  u.ds = c.ds ∧ if tn then u.k = c.k + 1 ∧ u.n = c.dsRead (c.k + 1) else u.n = c.n ∧ u.k = c.k

/-- `u` holds the shared evaluator's result (R170): `t`, and `carry` for the functions that have one. -/
def Folded (c u : StackCpu) (op : AluOp) (a y : Word) (cin : Bool) : Prop :=
  u.t = (aluFn op a y cin).r ∧ u.carry = if writesCarry op then (aluFn op a y cin).cout else c.carry

/-- `u` differs from `c` in `t`, `carry` and the data stack only. -/
def OnlyData (c u : StackCpu) : Prop := u = { c with t := u.t, carry := u.carry, n := u.n, k := u.k, ds := u.ds }

/-! ## RegisterCPU -/

/-- User mode of RegisterCPU (R430). -/
abbrev userMode (s : State) : Prop := s.reg.user = true

/-- What user mode cannot change: the upper byte of `psr`, `intbase` and `cfg` (R430). -/
structure Protected where
  psrHigh : Byte
  intbase : DWord
  cfg : BitVec 4
deriving DecidableEq, Repr

/-- The protected state of RegisterCPU (R430). -/
def RegCpu.guardedState (c : RegCpu) : Protected := { psrHigh := c.psr.extractLsb' 8 8, intbase := c.intbase, cfg := c.cfg }

/-- The stack pointer that `psr.S` does not select (R44). -/
def RegCpu.otherSp (c : RegCpu) : DWord := if psrBit c.psr bitS then c.sp0 else c.sp1

/-- The byte lies outside the `len` bytes from `a` on. -/
abbrev outside (len : Nat) (a x : DWord) : Prop := ∀ k < len, x ≠ a + BitVec.ofNat 32 k

/-- Where a read-modify-write of a destination stores (R269); nowhere for a register. -/
def RegCpu.updateAddr (c : RegCpu) : Dest → Option DWord
  | .reg _ => none
  | .mem ea => some ea
  | .tos => some c.sp

/-- Where a write to a destination stores (R269): a push stores below `SP`. -/
def RegCpu.writeAddr (c : RegCpu) (n : Size) : Dest → Option DWord
  | .reg _ => none
  | .mem ea => some ea
  | .tos => some (c.sp - BitVec.ofNat 32 n.bytes)

/-- The state with `SP` as a write to the destination leaves it: moved by a push only (R269). -/
def RegCpu.spAfterWrite (c : RegCpu) (n : Size) : Dest → RegCpu
  | .reg _ => c
  | .mem _ => c
  | .tos => c.setSp (c.sp - BitVec.ofNat 32 n.bytes)

/-- Every bit of `psr` that the list does not name is as before; those it names have the value it gives. -/
def PsrOnly (old new : Word) (named : List (Nat × Bool)) : Prop :=
  ∀ k < 16, psrBit new k = (named.lookup k).getD (psrBit old k)

/-- What an instruction with one destination of size `n` leaves alone: the other registers, the upper bits of the
destination register, every byte outside the stored ones, and every register but `psr`, `pc` and the stack pointers. -/
structure DestFrame (c t : RegCpu) (n : Size) (d : Dest) (stored : Option DWord) : Prop where
  regs : ∀ k, d ≠ .reg k → t.reg k = c.reg k
  upper : ∀ k b, d = .reg k → n.bits ≤ b → (t.reg k).getLsbD b = (c.reg k).getLsbD b
  bytes : ∀ x, (∀ a, stored = some a → outside n.bytes a x) → t.byteAt x = c.byteAt x
  others : t = { c with r := t.r, mem := t.mem, psr := t.psr, pc := t.pc, sp0 := t.sp0, sp1 := t.sp1 }

/-- The instruction completes, and its `rmw` destination `d` of size `n` then reads as `val` modulo 2^(8n); `c1` is the state
after the source was read, `flags` are the flags written. -/
def Updates (ins : Instr) (s : State) (c1 : RegCpu) (n : Size) (d : Dest) (len : Nat) (val : Int)
    (flags : List (Nat × Bool)) : Prop :=
  ∃ t : RegCpu, exec ins s = .next { s with reg := t } ∧ ((t.destValue n d).toNat : Int) = val % 2 ^ n.bits ∧
    PsrOnly s.reg.psr t.psr flags ∧ t.pc = s.reg.pc + BitVec.ofNat 32 len ∧ t.sp0 = c1.sp0 ∧ t.sp1 = c1.sp1 ∧
    DestFrame s.reg t n d (c1.updateAddr d)

/-- The same for a destination of class `write`: top of stack is pushed. -/
def Writes (ins : Instr) (s : State) (c1 : RegCpu) (n : Size) (d : Dest) (len : Nat) (val : Int)
    (flags : List (Nat × Bool)) : Prop :=
  ∃ t : RegCpu, exec ins s = .next { s with reg := t } ∧ ((t.destValue n d).toNat : Int) = val % 2 ^ n.bits ∧
    PsrOnly s.reg.psr t.psr flags ∧ t.pc = s.reg.pc + BitVec.ofNat 32 len ∧ t.sp0 = (c1.spAfterWrite n d).sp0 ∧
    t.sp1 = (c1.spAfterWrite n d).sp1 ∧ DestFrame s.reg t n d (c1.writeAddr n d)

/-- The instruction takes the trap: the entry state, from the state before it (R421, R422). -/
def Traps (ins : Instr) (s : State) (t : Trap) : Prop := exec ins s = .next { s with reg := s.reg.trapEntry t }

/-! ### The forms of general operands (R425) -/

/-- The instructions of format 4, 6 and 7 that have a destination or a bit as second operand and every size (R336 to R401). -/
def twoOperand (i : Size) : List (Gen → Gen → Instr) :=
  [.add i, .bic i, .addc i, .mov i, .orI i, .sub i, .andI i, .subc i, .tbit i, .xorI i,
   .rot i, .ash i, .cbit i, .cbiti i, .lsh i, .sbit i, .sbiti i, .neg i, .notI i, .absI i, .com i, .ibit i,
   .mul i, .quo i, .rem i, .modI i, .divI i]

/-- Those that have some sizes only (R343, R390 to R393). -/
def fixedSize : List (Gen → Gen → Instr) :=
  [.addr .d, .movxbw .b, .movzbw .b, .movzid .b, .movzid .w, .movxid .b, .movxid .w]

/-- The instructions with one general operand and every size (R311 to R318, R321 to R327). -/
def oneOperand (x : BitVec 4) (c : Cond) (d : Disp) (i : Size) : List (Gen → Instr) :=
  [.addq x i, .cmpq x i, .spr x i, .scond c i, (fun g => .acb x i g d), .movq x i, .lpr x i,
   .cxpd i, .jump i, .adjsp i, .jsr i, .caseI i]

/-- `BICPSR` and `BISPSR` at the sizes they have (R322, R324). -/
def psrOperand : List (Gen → Instr) := [.bicpsr .b, .bicpsr .w, .bispsr .b, .bispsr .w]

/-- How many of a mask's bits that `p` accepts are set (R289). -/
def setBits (m : Byte) (p : Nat → Bool) : Nat := ((List.range 8).filter fun b => p b && m.getLsbD b).length

end Sys2Proof.Machine
end

