-- ==== Sys2Proof/Certificates/Slice0/Obligations.lean ====
section
/-!
DEFINITION. The statements for the provers, in the order of the spec's files. Their vocabulary stands in Sys2Proof/Safety.lean.
-/
open Sys2Proof Sys2Proof.Machine

/-! ## Encoding (spec/30_encoding.md, spec/44_regcpu_gen_disp.md) -/

/-- Decoding the encoding of a well-formed instruction of either core gives it back, with every operand the model's
instruction holds. Model's choices in it: `MOVM`, `CMPM`, `INSS`, `EXTS` hold no trailing operand, against R386 to R389 (log
22, DEDUCED); an immediate with the undefined size code 10 has four bytes (log 15, DESIGN CHOICE); an unimplemented mnemonic with
size code 10 is not well-formed (log 21, DEDUCED). The field positions rest on passages that the spec marks as its own (R104 D1,
R105 D2, R108 D15, R110 D22, R120 D30, R122 D30, R124 to R127 D36 and D57); log 3. -/
def Obligations.DecodeEncodeRoundTrip : Prop := ∀ i : Instr, wellFormed i = true → decode (encode i) = .ok i

/-- In a byte stream a RegisterCPU instruction takes exactly its own bytes, at most nineteen, whatever follows it (R120).
Model's choices in it: the bytes of `MOVM`, `CMPM`, `INSS`, `EXTS` end before the trailing operand that R386 to R389 give them
(log 22, DEDUCED); an immediate with the undefined size code 10 has four bytes (log 15, DESIGN CHOICE). Rests on passages that the
spec marks as its own: R120 (D30, general knowledge); log 3. -/
def Obligations.DecodeTakesExactlyItsBytes : Prop :=
  ∀ (i : Instr) (bs rest : List Byte), wellFormed i = true → encode i = .bytes bs →
    decodeBytes (bs ++ rest) = .ok (i, rest) ∧ 0 < bs.length ∧ bs.length ≤ 19

/-- Every StackCPU word is a well-formed instruction, and encodes back to the same word: no bit is dropped (R101, R113). The
field positions rest on passages that the spec marks as its own: R104 (D1), R105 (D2), R108 (D15), R110 (D22); log 3. -/
def Obligations.EveryStackWordRoundTrips : Prop :=
  ∀ w : Word, wellFormed (decodeWord w) = true ∧ encode (decodeWord w) = .word w

/-- Each of the three displacement encodings of R245 decodes to the value it was made from, and the rest of the stream is
left. Rests on passages that the spec marks as its own: R245 (derived); log 3. -/
def Obligations.DisplacementRoundTrip : Prop :=
  ∀ (v : Int) (rest : List Byte),
    (-64 ≤ v → v ≤ 63 → ∃ d, decodeDisp (BitVec.ofInt 8 (v % 128) :: rest) = .ok (d, rest) ∧ d.value.toInt = v ∧ d.len = 1) ∧
    (-8192 ≤ v → v ≤ 8191 → ∃ d, decodeDisp (bytesBE2 (0x8000 + (v % 16384).toNat) ++ rest) = .ok (d, rest) ∧
      d.value.toInt = v ∧ d.len = 2) ∧
    (-536870912 ≤ v → v ≤ 536870911 →
      ∃ d, decodeDisp (bytesBE4 (0xC0000000 + (v % 1073741824).toNat) ++ rest) = .ok (d, rest) ∧
      d.value.toInt = v ∧ d.len = 4)

/-- The first two bits of the first byte give the length of a displacement, and the decoded displacement has it (R242, R244).
Which bits give which length rests on a passage that the spec marks as its own: R242 (D35, general knowledge); log 3. -/
def Obligations.DisplacementLengthByFirstByte : Prop :=
  ∀ b0 : Byte, dispSize b0 = (if b0.getLsbD 7 then (if b0.getLsbD 6 then 4 else 2) else 1) ∧
    ∀ bs d rest, decodeDisp (b0 :: bs) = .ok (d, rest) → d.len = dispSize b0

/-- A few words written out from the encoding tables decode to what they stand for. The field positions rest on passages that
the spec marks as its own: R104 (D1), R105 (D2), R108 (D15), R110 (D22), R122 (D30), R124 to R127 (D36, D57); log 3. -/
def Obligations.SampleWordsDecode : Prop :=
  decodeWord 0x1234#16 = .sCall 0x1234#15 ∧ decodeWord 0x9010#16 = .sIf 0x010#12 ∧
  decodeWord 0x890F#16 = .aluAdd ⟨.md, false, false, false, true, true, .right⟩ ∧
  decodeWord 0xDED1#16 = .istoreSa .y true false 1 ∧ decodeWord 0xE981#16 = .mfetchx .add false false 1#5 ∧
  decodeBytes [0x03, 0x4C, 0x08, 0x08, 0x04] = .ok (.add .d (.rel 1 (.d1 8)) (.memRel .fp (.d1 8) (.d1 4)), []) ∧
  decodeBytes [0x6F, 0x0F] = .ok (.lpr 14 .d (.reg 1), []) ∧ decodeBytes [0xE2] = .ok (.svc, [])

/-! ## Reset and memory (spec/20_memory.md, spec/70_reset_and_hazards.md) -/

/-- The two resets (R450 to R453). StackCPU: every register zero or false but `pc`, which is the boot address; RegisterCPU:
`pc` at its boot address, `psr` and `cfg` zero, so supervisor mode; neither touches a memory, a port callback or the other
core. Nothing is said of the registers R453 leaves unspecified (the model's choice for them is log 4). Rests on passages that
the spec marks as its own: R452 (D26), R453 (D41); log 3. -/
def Obligations.ResetStates : Prop :=
  ∀ s : State,
    (∃ c : StackCpu, hostAct s .resetStack = { s with stack := c } ∧ c.pc = s.par.stackBoot ∧
      c.t = 0 ∧ c.n = 0 ∧ c.i = 0 ∧ c.j = 0 ∧ c.k = 0 ∧ c.md = 0 ∧ c.sr = 0 ∧ c.bdata = 0 ∧ c.bdir = 0 ∧ c.bmask = 0 ∧
      c.btri = 0 ∧ c.xdata = 0 ∧ c.xdir = 0 ∧ c.xmask = 0 ∧ c.xtri = 0 ∧ c.carry = false ∧ c.timesmode = false ∧
      c.intreq = false ∧ c.prog = s.stack.prog ∧ c.ds = s.stack.ds ∧ c.rs = s.stack.rs ∧ c.io = s.stack.io) ∧
    (∃ c : RegCpu, hostAct s .resetReg = { s with reg := c } ∧ c.pc = s.par.regBoot ∧ c.psr = 0 ∧ c.cfg = 0 ∧
      c.mem = s.reg.mem ∧ c.user = false) ∧
    State.reset.stack.pc = 0x1000#16 ∧ State.reset.reg.pc = 0 ∧ hostAct State.reset .resetStack = State.reset ∧
    State.reset.reg.psr = 0 ∧ State.reset.reg.cfg = 0

/-- After reset all four memories are in canonical form, the model's own (log 5): nothing is listed as written. -/
def Obligations.ResetMemoryCanonical : Prop := Memory.wf State.reset

/-- Every step keeps all four memories in canonical form, so that equal memories stay equal data (the model's own form,
log 5). -/
def Obligations.StepKeepsMemoryCanonical : Prop := ∀ s t : State, Memory.wf s → step s = .next t → Memory.wf t

/-- RegisterCPU memory is little-endian bytes, modulo 2^32 (R80 to R82): a store of size `n` is read back, its byte `k` holds
bits `8k+7..8k` of the value, and every other byte is as before. Rests on passages that the spec marks as its own: R82 (D33,
general knowledge); log 3. -/
def Obligations.MemoryReadAfterWrite : Prop :=
  ∀ (c : RegCpu) (a : DWord) (n : Size) (v : DWord),
    (c.memWrite a n v).memRead a n = lowBits n v ∧
    (∀ k < n.bytes, (c.memWrite a n v).byteAt (a + BitVec.ofNat 32 k) = v.extractLsb' (8 * k) 8) ∧
    (∀ x, outside n.bytes a x → (c.memWrite a n v).byteAt x = c.byteAt x) ∧
    c.memWrite a n v = { c with mem := (c.memWrite a n v).mem }

/-- StackCPU program words and both stacks (R31, R72, R73, R74): a stored word is read back and no other word changes; a push
and the pop after it give back the top register and the pointer. Rests on passages that the spec marks as its own: R31
(derived); log 3. -/
def Obligations.StackMemoryRoundTrip : Prop :=
  ∀ (c : StackCpu) (a b v : Word),
    (c.progWrite a v).progRead b = (if b = a then v else c.progRead b) ∧
    ({ c.dPushN with n := v }.dPopN.n = c.n ∧ { c.dPushN with n := v }.dPopN.k = c.k) ∧
    ((c.rPush v).i = v ∧ (c.rPush v).rPop.i = c.i ∧ (c.rPush v).rPop.j = c.j) ∧
    WroteDs c c.dPushN c.k c.n ∧ WroteRs c (c.rPush v) c.j c.i

/-! ## The step (spec/40_stackcpu_step_call_branch.md, spec/44_regcpu_gen_disp.md) -/

/-- A step runs the decoded instruction, on either core. StackCPU (R140 to R144): exec of the fetched word, on the state after
the interrupt and TIMES phases and the advance of `pc`; with no interrupt to service and no TIMES, the word is the one at `pc`
and only `pc` has advanced. RegisterCPU (R240, R241): exec of the instruction decoded from the bytes at `pc`, on the same
state; so wherever memory holds the bytes of a well-formed instruction at `pc`, that one runs; for an instruction whose
mnemonic is not in `REGCPU_UNIMPLEMENTED` (R424 step 1), and for every instruction where that set is the default of R10. Rests
on passages that the spec marks as its own: R140 (D12), R141 (D12), R142 (derived), R143 (D14), R240 (D49, D37), R424 (D60);
log 3. -/
def Obligations.StepRunsDecodedInstruction : Prop :=
  ∀ s : State,
    (stackNext s →
      step s = exec (decodeWord (s.stack.fetched s.par.ieMask)) { s with stack := s.stack.afterFetch s.par.ieMask } ∧
      (s.stack.serviced s.par.ieMask = false → s.stack.timesmode = false →
        step s = exec (decodeWord (s.stack.progRead s.stack.pc)) { s with stack := { s.stack with pc := s.stack.pc + 1 } })) ∧
    (regNext s → ∀ i : Instr,
      ((∃ m, mnemonicOf i = some m ∧ m ∉ s.par.unimplemented) ∨ mnemonicOf i = none ∨
        s.par.unimplemented = Config.defaults.unimplemented) →
      (∀ rest : List Byte, decodeBytes s.reg.fetched = .ok (i, rest) → step s = exec i s) ∧
      (∀ bs : List Byte, wellFormed i = true → encode i = .bytes bs →
        (∀ k, (h : k < bs.length) → s.reg.byteAt (s.reg.pc + BitVec.ofNat 32 k) = bs[k]) → step s = exec i s))

/-- The two cores share nothing: a step of one leaves the other as it was (R2). -/
def Obligations.CoresShareNothing : Prop :=
  ∀ s t : State, s.script = [] → step s = .next t →
    (s.turn = .stack → t = { s with stack := t.stack }) ∧ (s.turn = .reg → t = { s with reg := t.reg })

/-! ## StackCPU: interrupt and TIMES (spec/40_stackcpu_step_call_branch.md, spec/60_exceptions.md) -/

/-- Taking the interrupt (R141, R414), with the request latched and enabled: the step pushes the carry over the low 15 bits of
`pc`, clears the request, and runs the word at `0x0020`; nothing else has changed before that word runs. In TIMES (R154, R462) it
is serviced too: the loop counter is what goes to the return-stack space, and the TIMES phase then decrements the pushed word, so
that the word at `0x0020` is repeated; a pushed word of 1 ends TIMES at once, with counter and pointer back. Rests on passages
that the spec marks as its own: R141 (D12), R142 (derived), R154 (D12); log 3. -/
def Obligations.InterruptEntry : Prop :=
  ∀ s : State, stackNext s → s.stack.intreq = true → s.stack.xtri &&& s.par.ieMask ≠ 0 →
    let saved := s.stack.carry.toNat * 32768 + s.stack.pc.toNat % 32768
    ∃ u : StackCpu, step s = exec (decodeWord (s.stack.progRead 0x0020)) { s with stack := u } ∧
      WroteRs s.stack u s.stack.j s.stack.i ∧
      (s.stack.timesmode = false →
        u = { s.stack with pc := 0x0021, intreq := false, i := u.i, j := s.stack.j - 1, rs := u.rs } ∧ u.i.toNat = saved) ∧
      (s.stack.timesmode = true → saved ≠ 1 →
        u = { s.stack with pc := 0x0020, intreq := false, i := u.i, j := s.stack.j - 1, rs := u.rs } ∧
        (u.i.toNat + 1) % 65536 = saved) ∧
      (s.stack.timesmode = true → saved = 1 →
        u = { s.stack with pc := 0x0021, intreq := false, timesmode := false, rs := u.rs })

/-- A request that is not serviced stays latched: no instruction clears or sets it (R35, R413). Rests on passages that the
spec marks as its own: R35 (D28); log 3. -/
def Obligations.InterruptStaysLatched : Prop :=
  ∀ s t : State, stackNext s → s.stack.serviced s.par.ieMask = false → step s = .next t → t.stack.intreq = s.stack.intreq

/-- The TIMES phase (R142, R143), with no interrupt serviced: `i` is decremented; while it is not zero the word at `pc` runs
and `pc` does not advance; when it reaches zero the return stack is popped, the latch cleared, and `pc` advances. Rests on
passages that the spec marks as its own: R142 (derived), R143 (D14); log 3. -/
def Obligations.TimesPhase : Prop :=
  ∀ s : State, stackNext s → s.stack.serviced s.par.ieMask = false → s.stack.timesmode = true →
    (s.stack.i ≠ 1 → step s = exec (decodeWord (s.stack.progRead s.stack.pc))
      { s with stack := { s.stack with i := s.stack.i - 1 } }) ∧
    (s.stack.i = 1 → step s = exec (decodeWord (s.stack.progRead s.stack.pc)) { s with
      stack := { s.stack with
        i := s.stack.rsRead (s.stack.j + 1), j := s.stack.j + 1, timesmode := false, pc := s.stack.pc + 1 } })

/-- `ISTORE` with SA begins TIMES (R203): `i` is pushed, the latch set, the slot written with `t`, and its own return bit does
nothing; the pop and the fold are those of every store (R192). Rests on passages that the spec marks as its own: R203 (D19);
log 3. -/
def Obligations.TimesBegins : Prop :=
  ∀ (s : State) (op : AluOp) (tn ret : Bool) (slot : Fin 16), ∃ b u : StackCpu,
    exec (.istoreSa op tn ret slot) s = .next { s with stack := u } ∧
    b = { s.stack with j := s.stack.j - 1, rs := b.rs, timesmode := true } ∧ WroteRs s.stack b s.stack.j s.stack.i ∧
    OnlyData (b.intWrite slot s.stack.t) u ∧ Popped (b.intWrite slot s.stack.t) u tn ∧
    Folded (b.intWrite slot s.stack.t) u op s.stack.t s.stack.n false

/-! ## StackCPU: CALL and branches -/

/-- `CALL` (R146): the return word is the carry over the low 15 bits of `pc`, `pc` is the 15-bit target, `carry` is kept. The
branches (R148 to R151): `IF` consumes `t` and branches on zero; `LOOP` decrements a nonzero `i` and branches, and drops a zero
one; `ELSE` branches always; their target is in the 4096-word page of `pc`. Rests on passages that the spec marks as its own:
R146 (D11), R148 (D10, general knowledge), R149 (D10), R150 (D10); log 3. -/
def Obligations.CallAndBranchesComplete : Prop :=
  ∀ (s : State) (dest : BitVec 15) (a : BitVec 12),
    (∃ u : StackCpu, exec (.sCall dest) s = .next { s with stack := u } ∧
      u = { s.stack with pc := u.pc, i := u.i, j := s.stack.j - 1, rs := u.rs } ∧ u.pc.toNat = dest.toNat ∧
      u.i.toNat = s.stack.carry.toNat * 32768 + s.stack.pc.toNat % 32768 ∧ WroteRs s.stack u s.stack.j s.stack.i) ∧
    (∃ target : Word, target.toNat = s.stack.pc.toNat / 4096 * 4096 + a.toNat ∧
      exec (.sIf a) s = .next { s with stack := { s.stack with
        t := s.stack.n, k := s.stack.k + 1, n := s.stack.dsRead (s.stack.k + 1),
        pc := if s.stack.t = 0 then target else s.stack.pc } } ∧
      exec (.sLoop a) s = .next { s with stack := if s.stack.i = 0
        then { s.stack with i := s.stack.rsRead (s.stack.j + 1), j := s.stack.j + 1 }
        else { s.stack with i := s.stack.i - 1, pc := target } } ∧
      exec (.sElse a) s = .next { s with stack := { s.stack with pc := target } })

/-! ## StackCPU: the ALU class (spec/41_stackcpu_alu.md) -/

/-- The shared evaluator is arithmetic on unbounded numbers (R170, R173 to R175): sums modulo 2^16 with bit 16 as carry, so
that without an incoming carry the carry of a subtraction says that nothing was borrowed. Rests on passages that the spec
marks as its own: R174 (D9); log 3. -/
def Obligations.EvaluatorArithmetic : Prop :=
  ∀ (a y : Word) (cin : Bool),
    ((aluFn .add a y cin).r.toNat + 65536 * (aluFn .add a y cin).cout.toNat = a.toNat + y.toNat + cin.toNat) ∧
    ((aluFn .sub a y cin).r.toNat = (a.toNat + (65535 - y.toNat) + 1 + cin.toNat) % 65536 ∧
      (aluFn .sub a y cin).cout.toNat = (a.toNat + (65535 - y.toNat) + 1 + cin.toNat) / 65536 % 2) ∧
    ((aluFn .suby a y cin).r.toNat = (y.toNat + (65535 - a.toNat) + 1 + cin.toNat) % 65536 ∧
      (aluFn .suby a y cin).cout.toNat = (y.toNat + (65535 - a.toNat) + 1 + cin.toNat) / 65536 % 2) ∧
    ((aluFn .sub a y false).cout = decide (y.toNat ≤ a.toNat) ∧ (aluFn .suby a y false).cout = decide (a.toNat ≤ y.toNat)) ∧
    ((aluFn .t a y cin).r = a ∧ (aluFn .y a y cin).r = y ∧ (aluFn .and a y cin).r = a &&& y ∧
      (aluFn .or a y cin).r = a ||| y ∧ (aluFn .xor a y cin).r = a ^^^ y)

/-- The eight ALU instructions complete (R160 to R172, R176, R177): the operand is selected before the stack adjust, the push
wins over the pop, `carry` is written by the three arithmetic functions only, `t` is not written where the step condition
fails; then the shift, then the return bit. Rests on passages that the spec marks as its own: R161 (D3), R171 (D7), R172 (D6),
R176 (D6, general knowledge), R177 (D6, general knowledge); log 3. -/
def Obligations.AluClassCompletes : Prop :=
  ∀ (s : State) (op : AluOp) (o : AluOpts), (o.step = true → writesCarry op = true) → ∃ u : StackCpu,
    exec (aluInstr op o) s = .next { s with stack := (u.shift o.sh32 o.sh).retPost o.ret } ∧ OnlyData s.stack u ∧
    (if o.tn then Pushed s.stack u true else Popped s.stack u o.sa) ∧
    (let y := if o.ysrc = .md then s.stack.md else if o.ysrc = .sr then s.stack.sr else s.stack.n
     let res := aluFn op s.stack.t y (o.ysrc == .nc && s.stack.carry)
     (u.carry = if writesCarry op then res.cout else s.stack.carry) ∧
     (u.t = if o.step = true ∧ (if op = .add then u.n.getLsbD 0 else res.cout) = false then s.stack.t else res.r))

/-- The shift micro-step (R178 to R181), with `t:n` read as one 32-bit number: the 32-bit shifts move the carry through, the
16-bit left shift takes the carry in and the right one gives it out, the sign form fills `t`. Rests on passages that the spec
marks as its own: R178 (D4), R179 (D5), R180 (D5), R181 (D5); log 3. -/
def Obligations.ShiftMicroStep : Prop :=
  ∀ (c : StackCpu) (sh32 : Bool) (sh : ShiftCode),
    let u := c.shift sh32 sh
    u = { c with t := u.t, n := u.n, carry := u.carry } ∧
    (sh = .none → u = c) ∧
    (sh = .sign → u = { c with t := if 32768 ≤ c.t.toNat then 0xFFFF#16 else 0#16 }) ∧
    (sh = .left → sh32 = false → u.t.toNat = (2 * c.t.toNat + c.carry.toNat) % 65536 ∧ u.n = c.n ∧ u.carry = c.carry) ∧
    (sh = .right → sh32 = false → 2 * u.t.toNat + u.carry.toNat = c.t.toNat ∧ u.n = c.n) ∧
    (sh = .left → sh32 = true → u.carry.toNat * 4294967296 + u.t.toNat * 65536 + u.n.toNat =
      2 * (c.t.toNat * 65536 + c.n.toNat) + c.carry.toNat) ∧
    (sh = .right → sh32 = true → 2 * (u.t.toNat * 65536 + u.n.toNat) + u.carry.toNat =
      c.carry.toNat * 4294967296 + c.t.toNat * 65536 + c.n.toNat)

/-- The return-bit post-process (R183): nothing with the bit clear or in TIMES; else `pc` and `carry` come from `i` and the
return stack is popped. -/
def Obligations.ReturnBit : Prop :=
  ∀ (c : StackCpu) (ret : Bool),
    (ret = false ∨ c.timesmode = true → c.retPost ret = c) ∧
    (ret = true → c.timesmode = false → ∃ u : StackCpu, c.retPost ret = u ∧
      u = { c with pc := u.pc, carry := u.carry, j := c.j + 1, i := c.rsRead (c.j + 1) } ∧
      c.i.toNat = u.carry.toNat * 32768 + u.pc.toNat ∧ u.pc.toNat < 32768)

/-! ## StackCPU: fetch and store (spec/42_stackcpu_lli.md, spec/43_stackcpu_mem.md) -/

/-- The two refused StackCPU encodings and no other (R114, R177, R205, R441): an ALU word is refused exactly when the step flag
stands with a function other than `ADD`, `SUB`, `SUBY`; the reserved store is refused in every state; every other word, read with
the bits of R104 and R108, completes. Rests on passages that the spec marks as its own: R104 (D1), R105 (D2), R108 (D15), R177
(D6, general knowledge), R205 (D25), R441 (D25, D59); log 3. -/
def Obligations.RefusedEncodings : Prop :=
  ∀ (s : State) (op : AluOp) (o : AluOpts) (tn ret : Bool) (a5 : BitVec 5) (w : Word),
    let aluStep := w &&& 0xF008 = 0x8008 ∧ (w &&& 0x0E00 ≠ 0x0400 ∧ w &&& 0x0E00 ≠ 0x0800 ∧ w &&& 0x0E00 ≠ 0x0C00)
    let store3 := w &&& 0xF180 = 0xD180
    (exec (aluInstr op o) s = .refused .stepFlagWithoutCondition ↔
      o.step = true ∧ op ≠ .add ∧ op ≠ .sub ∧ op ≠ .suby) ∧
    exec (.lliReserved op tn ret a5) s = .refused .reservedEncoding ∧
    (aluStep → exec (decodeWord w) s = .refused .stepFlagWithoutCondition) ∧
    (store3 → exec (decodeWord w) s = .refused .reservedEncoding) ∧
    (¬ aluStep → ¬ store3 → ∃ u : StackCpu, exec (decodeWord w) s = .next { s with stack := u })

/-- The four fetches complete (R191, R196 to R199): the value is that of the form, `tn` pushes, the value is folded into `t`
with no incoming carry; `LITL` also moves `pc` past the literal; the return bit comes last. Rests on passages that the spec
marks as its own: R196 (D18), R197 (D20), R198 (D16); log 3. -/
def Obligations.FetchesComplete : Prop :=
  ∀ (s : State) (op : AluOp) (tn ret sa : Bool) (a5 : BitVec 5) (slot : Fin 16),
    let Fetches (ins : Instr) (c : StackCpu) (v : Word) : Prop := ∃ u : StackCpu,
      exec ins s = .next { s with stack := u.retPost ret } ∧ OnlyData c u ∧ Pushed c u tn ∧ Folded c u op s.stack.t v false
    Fetches (.lfetch op tn ret a5) s.stack (s.stack.progRead (BitVec.ofNat 16 a5.toNat)) ∧
    Fetches (.ifetch op tn ret sa slot) s.stack (s.stack.intRead slot) ∧
    Fetches (.lits op tn ret a5) s.stack (BitVec.ofNat 16 a5.toNat) ∧
    Fetches (.litl op tn ret a5) { s.stack with pc := s.stack.pc + 1 } (s.stack.progRead s.stack.pc)

/-- The stores complete (R192, R201, R202, R204): the old `t` is stored in a local word or an internal slot, `tn` pops, the
old `n` (for a swap the old slot value) is folded with the old `t`; the return bit comes last. Rests on passages that the spec
marks as its own: R204 (D20); log 3. -/
def Obligations.StoresComplete : Prop :=
  ∀ (s : State) (op : AluOp) (tn ret sa : Bool) (a5 : BitVec 5) (slot : Fin 16),
    let Stores (ins : Instr) (c : StackCpu) (y : Word) : Prop := ∃ u : StackCpu,
      exec ins s = .next { s with stack := u.retPost ret } ∧ OnlyData c u ∧ Popped c u tn ∧ Folded c u op s.stack.t y false
    (∃ c : StackCpu, c = { s.stack with prog := c.prog } ∧
      (∀ w : Word, c.progRead w = if w.toNat = a5.toNat then s.stack.t else s.stack.progRead w) ∧
      Stores (.lstore op tn ret a5) c s.stack.n) ∧
    Stores (.istore op tn ret slot) (s.stack.intWrite slot s.stack.t) s.stack.n ∧
    Stores (.iswap op tn ret sa slot) (s.stack.intWrite slot s.stack.t) (s.stack.intRead slot)

/-- The sixteen internal slots (R210 to R225): what a write leaves and what a read then gives; a mask bit protects its data
bit and a bound output callback gets the new latch once; a direction bit of 0 lets the pin into a read. Rests on passages that
the spec marks as its own: R214 (derived), R218 (D21), R219 (D21), R225 (D13); log 3. -/
def Obligations.InternalSlots : Prop :=
  ∀ (c : StackCpu) (v : Word),
    (c.intWrite 0 v = { c with k := v.extractLsb' 8 8, j := v.extractLsb' 0 8 } ∧
      (c.intRead 0).toNat = c.k.toNat * 256 + c.j.toNat ∧ c.intWrite 1 v = { c with i := v } ∧ c.intRead 1 = c.i ∧
      c.intWrite 2 v = { c with pc := v } ∧ c.intRead 2 = c.pc ∧ c.intWrite 3 v = c ∧ c.intRead 3 = 0xFFFF) ∧
    (c.intWrite 4 v = { c with md := v } ∧ c.intWrite 5 v = { c with md := v } ∧ c.intRead 4 = c.md ∧ c.intRead 5 = c.md ∧
      c.intWrite 6 v = { c with sr := v } ∧ c.intWrite 7 v = { c with sr := v } ∧ c.intRead 6 = c.sr ∧ c.intRead 7 = c.sr) ∧
    (∃ b : Word, c.intWrite 8 v = { c with bdata := b, io := { c.io with
        outs := c.io.outs ++ if c.io.bOutBound then [.b b] else [] } } ∧
      (∀ k < 16, b.getLsbD k = if c.bmask.getLsbD k then c.bdata.getLsbD k else v.getLsbD k) ∧
      ∀ k < 16, (c.intRead 8).getLsbD k = (c.bdata.getLsbD k ^^ (!c.bdir.getLsbD k && (c.io.bIn.getD 0).getLsbD k))) ∧
    (∃ x : BitVec 5, c.intWrite 12 v = { c with xdata := x, io := { c.io with
        outs := c.io.outs ++ if c.io.xOutBound then [.x x] else [] } } ∧
      (∀ k < 5, x.getLsbD k = if c.xmask.getLsbD k then c.xdata.getLsbD k else v.getLsbD k) ∧
      ∀ k < 16, (c.intRead 12).getLsbD k =
        (decide (k < 5) && (c.xdata.getLsbD k ^^ (!c.xdir.getLsbD k && (c.io.xIn.getD 0).getLsbD k)))) ∧
    (c.intWrite 9 v = { c with bmask := v } ∧ c.intRead 9 = c.bmask ∧ c.intWrite 10 v = { c with bdir := v } ∧
      c.intRead 10 = c.bdir ∧ c.intWrite 11 v = { c with btri := v } ∧ c.intRead 11 = c.btri) ∧
    (c.intWrite 13 v = { c with xmask := v.extractLsb' 0 5 } ∧ (c.intRead 13).toNat = c.xmask.toNat ∧
      c.intWrite 14 v = { c with xdir := v.extractLsb' 0 5 } ∧ (c.intRead 14).toNat = c.xdir.toNat ∧
      c.intWrite 15 v = { c with xtri := v.extractLsb' 0 5 } ∧ (c.intRead 15).toNat = c.xtri.toNat)

/-- The memory fetches complete (R232, R233). `MFETCHX` pushes the fetched word under the pointer and folds the literal into
the pointer; `MFETCH` replaces the pointer by the word, or with `tn` folds the old `n` into the word and pops. Program memory
is only read. Rests on passages that the spec marks as its own: R230 (D22), for which values move where in each variant, R174
(D9), R31 (derived); log 3. -/
def Obligations.MemoryFetchesComplete : Prop :=
  ∀ (s : State) (op : AluOp) (tn ret : Bool) (lit5 : BitVec 5),
    (∃ u : StackCpu, exec (.mfetchx op tn ret lit5) s = .next { s with stack := u.retPost ret } ∧ OnlyData s.stack u ∧
      u.n = s.stack.progRead s.stack.t ∧ u.k = s.stack.k - 1 ∧ WroteDs s.stack u s.stack.k s.stack.n ∧
      Folded s.stack u op s.stack.t (BitVec.ofNat 16 lit5.toNat) false) ∧
    (∃ u : StackCpu, OnlyData s.stack u ∧ Popped s.stack u tn ∧
      (if tn then Folded s.stack u op (s.stack.progRead s.stack.t) s.stack.n false
        else u.t = s.stack.progRead s.stack.t ∧ u.carry = s.stack.carry) ∧
      exec (.mfetch0 op tn ret lit5) s = .next { s with stack := u.retPost ret } ∧
      exec (.mfetch1 op tn ret lit5) s = .next { s with stack := u.retPost ret } ∧
      exec (.mfetch2 op tn ret lit5) s = .next { s with stack := u.retPost ret })

/-- The memory stores complete (R235, R236). Both store `n` at the word `t` addresses and change no other word; `MSTOREX` pops
and folds the literal into the pointer; `MSTORE` changes nothing else, or with `tn` pops and folds the old `n`. Rests on
passages that the spec marks as its own: R230 (D22), for which values move where in each variant, R174 (D9), R31 (derived);
log 3. -/
def Obligations.MemoryStoresComplete : Prop :=
  ∀ (s : State) (op : AluOp) (tn ret : Bool) (lit5 : BitVec 5), ∃ c : StackCpu, c = { s.stack with prog := c.prog } ∧
    (∀ w : Word, c.progRead w = if w = s.stack.t then s.stack.n else s.stack.progRead w) ∧
    (∃ u : StackCpu, exec (.mstorex op tn ret lit5) s = .next { s with stack := u.retPost ret } ∧ OnlyData c u ∧
      Popped c u true ∧ Folded c u op s.stack.t (BitVec.ofNat 16 lit5.toNat) false) ∧
    (∃ u : StackCpu, OnlyData c u ∧ Popped c u tn ∧
      (if tn then Folded c u op s.stack.t s.stack.n false else u.t = s.stack.t ∧ u.carry = s.stack.carry) ∧
      exec (.mstore0 op tn ret lit5) s = .next { s with stack := u.retPost ret } ∧
      exec (.mstore1 op tn ret lit5) s = .next { s with stack := u.retPost ret } ∧
      exec (.mstore2 op tn ret lit5) s = .next { s with stack := u.retPost ret })

/-! ## RegisterCPU: the general operands (spec/44_regcpu_gen_disp.md) -/

/-- The general operands (R252 to R269), seen through `ADDR`, `MOV` and `XOR`: the address that each memory mode gives, to be
read and written there, least significant byte first, at the size of the operand; the low bits of a register; an immediate; the
top of stack, which a read pops, a write pushes, a read-modify-write leaves in place and `ADDR` only names. Rests on passages
that the spec marks as its own: R249 (general knowledge), R252 (general knowledge), R255 (general knowledge), R263 (D51, general
knowledge), R264 (D52, general knowledge), R270 (D44), R343 (D45), R82 (D33, general knowledge);
log 3. -/
def Obligations.GeneralOperandsResolve : Prop :=
  ∀ (s : State) (i : Size) (r k : Fin 8) (d d1 d2 : Disp) (v : Imm), i ≠ .undef →
    let c := s.reg
    let inMem (ea : DWord) (b : Nat) : Byte := c.byteAt (ea + BitVec.ofNat 32 b)
    let byteOf (x : DWord) (b : Nat) : Byte := x.extractLsb' (8 * b) 8
    let Addresses (g : Gen) (ea : DWord) : Prop := ∃ t : RegCpu, exec (.addr .d g (.reg r)) s = .next { s with reg := t } ∧
      t = { c with r := t.r, pc := c.pc + BitVec.ofNat 32 (2 + g.len) } ∧ t.reg r = ea ∧ ∀ x, x ≠ r → t.reg x = c.reg x
    let Loads (g : Gen) (val : Nat → Byte) (c1 : RegCpu) : Prop := ∃ t : RegCpu, exec (.mov i g (.reg r)) s = .next { s with reg := t } ∧
      t = { c1 with r := t.r, pc := c.pc + BitVec.ofNat 32 (2 + g.len) } ∧ (∀ b < i.bytes, byteOf (t.reg r) b = val b) ∧
      (∀ j, i.bits ≤ j → (t.reg r).getLsbD j = (c.reg r).getLsbD j) ∧ ∀ x, x ≠ r → t.reg x = c.reg x
    let Stores (g : Gen) (ea : DWord) (c1 : RegCpu) : Prop := ∃ t : RegCpu, exec (.mov i (.reg r) g) s = .next { s with reg := t } ∧
      t = { c1 with mem := t.mem, pc := c.pc + BitVec.ofNat 32 (2 + g.len) } ∧
      (∀ b < i.bytes, t.byteAt (ea + BitVec.ofNat 32 b) = byteOf (c.reg r) b) ∧
      ∀ x, outside i.bytes ea x → t.byteAt x = c.byteAt x
    let InMemory (g : Gen) (ea : DWord) : Prop :=
      c.resolve g = .ok (.mem ea) ∧ Addresses g ea ∧ Loads g (inMem ea) c ∧ Stores g ea c
    (InMemory (.rel k d) (c.reg k + d.value) ∧ InMemory (.memRel .fp d1 d2) (c.read32 (c.fp + d1.value) + d2.value) ∧
      InMemory (.memRel .sp d1 d2) (c.read32 (c.sp + d1.value) + d2.value) ∧
      InMemory (.memRel .sb d1 d2) (c.read32 (c.sb + d1.value) + d2.value) ∧ InMemory (.abs d) d.value ∧
      InMemory (.ext d1 d2) (c.read32 (c.read32 (BitVec.ofNat 32 c.mod.toNat + 4) + 4 * d1.value) + d2.value) ∧
      InMemory (.space .fp d) (c.fp + d.value) ∧ InMemory (.space .sp d) (c.sp + d.value) ∧
      InMemory (.space .sb d) (c.sb + d.value) ∧ InMemory (.space .pc d) (c.pc + d.value)) ∧
    (Loads (.reg k) (byteOf (c.reg k)) c ∧ Loads (.imm v) (byteOf v.value) c) ∧
    (Addresses .tos c.sp ∧
      (∃ c1 : RegCpu, c1 = { c with sp0 := c1.sp0, sp1 := c1.sp1 } ∧ c1.sp = c.sp + BitVec.ofNat 32 i.bytes ∧
        c1.otherSp = c.otherSp ∧ Loads .tos (inMem c.sp) c1) ∧
      (∃ c1 : RegCpu, c1 = { c with sp0 := c1.sp0, sp1 := c1.sp1 } ∧ c1.sp = c.sp - BitVec.ofNat 32 i.bytes ∧
        c1.otherSp = c.otherSp ∧ Stores .tos c1.sp c1) ∧
      (∃ t : RegCpu, exec (.xorI i (.reg r) .tos) s = .next { s with reg := t } ∧
        t = { c with mem := t.mem, pc := c.pc + 2 } ∧ (∀ x, outside i.bytes c.sp x → t.byteAt x = c.byteAt x) ∧
        ∀ b < i.bytes, t.byteAt (c.sp + BitVec.ofNat 32 b) = inMem c.sp b ^^^ byteOf (c.reg r) b))

/-! ## RegisterCPU: formats 0 and 1 (spec/45_regcpu_fmt0_fmt1.md) -/

/-- The sixteen branches (R280, R281): the target is relative to the branch itself, a branch not taken moves past it, and only
`pc` changes. Rests on passages that the spec marks as its own: R280 (general knowledge), R281 (D32, general knowledge); log
3. -/
def Obligations.ConditionalBranches : Prop :=
  ∀ (s : State) (d : Disp),
    let C := psrBit s.reg.psr 0
    let L := psrBit s.reg.psr 2
    let F := psrBit s.reg.psr 5
    let Z := psrBit s.reg.psr 6
    let N := psrBit s.reg.psr 7
    let goes (taken : Bool) : Out := .next { s with reg := { s.reg with
      pc := if taken then s.reg.pc + d.value else s.reg.pc + BitVec.ofNat 32 (1 + d.len) } }
    exec (.beq d) s = goes Z ∧ exec (.bne d) s = goes (!Z) ∧ exec (.bcs d) s = goes C ∧ exec (.bcc d) s = goes (!C) ∧
    exec (.bhi d) s = goes L ∧ exec (.bls d) s = goes (!L) ∧ exec (.bgt d) s = goes N ∧ exec (.ble d) s = goes (!N) ∧
    exec (.bfs d) s = goes F ∧ exec (.bfc d) s = goes (!F) ∧ exec (.blo d) s = goes (!(L || Z)) ∧
    exec (.bhs d) s = goes (L || Z) ∧ exec (.blt d) s = goes (!(N || Z)) ∧ exec (.bge d) s = goes (N || Z) ∧
    exec (.br d) s = goes true ∧ exec (.bn d) s = goes false

/-- After `CMP` and `CMPQ` of every size the conditions of R281 read as their names say: the first operand against the second,
unsigned for `HI`, `LS`, `LO`, `HS`, signed for `GT`, `LE`, `LT`, `GE`. Rests on passages that the spec marks as its own: R281
(D32, general knowledge); log 3. -/
def Obligations.ConditionsAfterCompare : Prop :=
  ∀ (s : State) (i : Size) (g1 g2 : Gen) (o1 o2 : Opnd) (q : BitVec 4), i ≠ .undef → wfGens i i g1 g2 = true →
    s.reg.resolve g1 = .ok o1 → s.reg.resolve g2 = .ok o2 →
    let Reads (ins : Instr) (a b : DWord) : Prop := ∃ t : RegCpu, exec ins s = .next { s with reg := t } ∧
      (condTrue .eq t.psr = decide (a = b) ∧ condTrue .ne t.psr = decide (a ≠ b)) ∧
      (condTrue .hi t.psr = decide (b.toNat < a.toNat) ∧ condTrue .ls t.psr = decide (a.toNat ≤ b.toNat) ∧
        condTrue .lo t.psr = decide (a.toNat < b.toNat) ∧ condTrue .hs t.psr = decide (b.toNat ≤ a.toNat)) ∧
      (condTrue .gt t.psr = decide (signedOf i b < signedOf i a) ∧ condTrue .le t.psr = decide (signedOf i a ≤ signedOf i b) ∧
        condTrue .lt t.psr = decide (signedOf i a < signedOf i b) ∧ condTrue .ge t.psr = decide (signedOf i b ≤ signedOf i a))
    Reads (.cmp i g1 g2) (s.reg.srcValue i o1) ((s.reg.afterSource i o1).srcValue i o2) ∧
    Reads (.cmpq q i g1) (lowBits i (q.signExtend 32)) (s.reg.srcValue i o1)

/-- `BSR` and `RET` (R282, R283): the return address is pushed on the selected stack, the target is relative to the
instruction; `RET` pops it and adds its displacement to `SP`; a `RET 0` right after a `BSR` leaves every register as it was but
`pc`, which is past the `BSR`. -/
def Obligations.SubroutineCallAndReturn : Prop :=
  ∀ (s : State) (d : Disp),
    (∃ t : RegCpu, exec (.bsr d) s = .next { s with reg := t } ∧
      t = { s.reg with pc := s.reg.pc + d.value, sp0 := t.sp0, sp1 := t.sp1, mem := t.mem } ∧ t.sp = s.reg.sp - 4 ∧
      t.otherSp = s.reg.otherSp ∧ t.read32 t.sp = s.reg.pc + BitVec.ofNat 32 (1 + d.len) ∧
      (∀ x, outside 4 t.sp x → t.byteAt x = s.reg.byteAt x) ∧
      exec (.ret (.d1 0)) { s with reg := t } =
        .next { s with reg := { s.reg with pc := s.reg.pc + BitVec.ofNat 32 (1 + d.len), mem := t.mem } }) ∧
    (∃ t : RegCpu, exec (.ret d) s = .next { s with reg := t } ∧
      t = { s.reg with pc := s.reg.read32 s.reg.sp, sp0 := t.sp0, sp1 := t.sp1 } ∧ t.sp = s.reg.sp + 4 + d.value ∧
      t.otherSp = s.reg.otherSp)

/-- `CXP`, `CXPD` and `RXP` (R284, R285, R321): the calls push `mod`, then the return address, and enter the procedure of the
descriptor, `sb` and `pc` from the new module's table; the return pops both and reloads `sb`. Rests on passages that the spec
marks as its own: R284 (D51, general knowledge); log 3. -/
def Obligations.ExternalCallAndReturn : Prop :=
  ∀ s : State,
    (let Calls (ins : Instr) (desc : DWord) (len : Nat) : Prop := ∃ t : RegCpu, exec ins s = .next { s with reg := t } ∧
      t = { s.reg with pc := t.pc, sb := t.sb, mod := t.mod, sp0 := t.sp0, sp1 := t.sp1, mem := t.mem } ∧
      t.sp = s.reg.sp - 8 ∧ t.otherSp = s.reg.otherSp ∧ t.read32 (s.reg.sp - 4) = BitVec.ofNat 32 s.reg.mod.toNat ∧
      t.read32 t.sp = s.reg.pc + BitVec.ofNat 32 len ∧ (∀ x, outside 8 t.sp x → t.byteAt x = s.reg.byteAt x) ∧
      t.mod.toNat = desc.toNat % 65536 ∧ t.sb = t.read32 (BitVec.ofNat 32 t.mod.toNat) ∧
      t.pc = t.read32 (BitVec.ofNat 32 t.mod.toNat + 8) + BitVec.ofNat 32 (desc.toNat / 65536)
     (∀ d : Disp, Calls (.cxp d)
        (s.reg.read32 (s.reg.read32 (BitVec.ofNat 32 s.reg.mod.toNat + 4) + 4 * d.value)) (1 + d.len)) ∧
     (∀ (i : Size) (g : Gen) (o : Opnd) (ea : DWord), i ≠ .undef → s.reg.resolve g = .ok o → s.reg.addrOf o = .ok ea →
        Calls (.cxpd i g) (s.reg.read32 ea) (2 + g.len))) ∧
    (∀ d : Disp, ∃ t : RegCpu, exec (.rxp d) s = .next { s with reg := t } ∧
      t = { s.reg with pc := s.reg.read32 s.reg.sp, sb := t.sb, mod := t.mod, sp0 := t.sp0, sp1 := t.sp1 } ∧
      t.mod.toNat = (s.reg.read32 (s.reg.sp + 4)).toNat % 65536 ∧ t.sb = s.reg.read32 (BitVec.ofNat 32 t.mod.toNat) ∧
      t.sp = s.reg.sp + 8 + d.value ∧ t.otherSp = s.reg.otherSp)

/-- `SAVE` and `RESTORE` (R288 to R290): bit `b` of a `SAVE` mask pushes `r[b]`, from bit 0 on; bit `b` of a `RESTORE` mask
pops `r[7-b]`, from bit 0 on; a `RESTORE` of the reversed mask right after a `SAVE` gives back every register but `pc`. Rests
on passages that the spec marks as its own: R289 (D43, general knowledge); log 3. -/
def Obligations.SaveAndRestore : Prop :=
  ∀ (s : State) (m : Byte),
    (∃ t : RegCpu, exec (.save m) s = .next { s with reg := t } ∧
      t = { s.reg with pc := s.reg.pc + 2, sp0 := t.sp0, sp1 := t.sp1, mem := t.mem } ∧ t.otherSp = s.reg.otherSp ∧
      t.sp = s.reg.sp - BitVec.ofNat 32 (4 * setBits m fun _ => true) ∧
      (∀ b : Fin 8, m.getLsbD b = true → t.read32 (t.sp + BitVec.ofNat 32 (4 * setBits m fun j => b.val < j)) = s.reg.reg b) ∧
      (∀ x, outside (4 * setBits m fun _ => true) t.sp x → t.byteAt x = s.reg.byteAt x) ∧
      exec (.restore m.reverse) { s with reg := t } = .next { s with reg := { s.reg with pc := s.reg.pc + 4, mem := t.mem } }) ∧
    (∃ t : RegCpu, exec (.restore m) s = .next { s with reg := t } ∧
      t = { s.reg with pc := s.reg.pc + 2, r := t.r, sp0 := t.sp0, sp1 := t.sp1 } ∧ t.otherSp = s.reg.otherSp ∧
      t.sp = s.reg.sp + BitVec.ofNat 32 (4 * setBits m fun _ => true) ∧
      (∀ b : Fin 8, t.reg b.rev = if m.getLsbD b
        then s.reg.read32 (s.reg.sp + BitVec.ofNat 32 (4 * setBits m fun j => j < b.val)) else s.reg.reg b.rev))

/-- `ENTER` and `EXIT` (R291, R292). `ENTER` pushes `fp`, points it there, makes room for the locals and pushes the registers;
`EXIT` pops the registers, then `SP` and `fp` come from the frame. With a frame size that is not negative, an `EXIT` of the
reversed mask right after an `ENTER` gives back every register but `pc`. Rests on passages that the spec marks as its own:
R289 (D43, general knowledge); log 3. -/
def Obligations.EnterAndExit : Prop :=
  ∀ (s : State) (m : Byte) (d : Disp),
    (∃ t : RegCpu, exec (.enter m d) s = .next { s with reg := t } ∧
      t = { s.reg with pc := s.reg.pc + BitVec.ofNat 32 (2 + d.len), fp := s.reg.sp - 4, sp0 := t.sp0, sp1 := t.sp1,
                       mem := t.mem } ∧ t.otherSp = s.reg.otherSp ∧
      t.sp = s.reg.sp - 4 - d.value - BitVec.ofNat 32 (4 * setBits m fun _ => true) ∧
      (∀ x, outside 4 (s.reg.sp - 4) x → outside (4 * setBits m fun _ => true) t.sp x → t.byteAt x = s.reg.byteAt x) ∧
      (d.value.toNat < 536870912 → t.read32 t.fp = s.reg.fp ∧
        (∀ b : Fin 8, m.getLsbD b = true →
          t.read32 (t.sp + BitVec.ofNat 32 (4 * setBits m fun j => b.val < j)) = s.reg.reg b) ∧
        exec (.exitI m.reverse) { s with reg := t } =
          .next { s with reg := { s.reg with pc := s.reg.pc + BitVec.ofNat 32 (4 + d.len), mem := t.mem } })) ∧
    (∃ t : RegCpu, exec (.exitI m) s = .next { s with reg := t } ∧
      t = { s.reg with pc := s.reg.pc + 2, r := t.r, fp := s.reg.read32 s.reg.fp, sp0 := t.sp0, sp1 := t.sp1 } ∧
      t.otherSp = s.reg.otherSp ∧ t.sp = s.reg.fp + 4 ∧
      (∀ b : Fin 8, t.reg b.rev = if m.getLsbD b
        then s.reg.read32 (s.reg.sp + BitVec.ofNat 32 (4 * setBits m fun j => j < b.val)) else s.reg.reg b.rev))

/-! ## RegisterCPU: traps and privilege (spec/60_exceptions.md) -/

/-- Taking a trap (R421): `S`, `U`, `T`, `P` cleared, then the old `psr` over `mod` and the `pc` of the trapping instruction
pushed on `sp[0]`, then the descriptor of the vector (R420) entered; the general registers, `fp`, `sp[1]`, `intbase` and `cfg`
are not touched. Rests on passages that the spec marks as its own: R421 (D37, general knowledge), R420 (D37, general
knowledge); log 3. -/
def Obligations.TrapEntryState : Prop :=
  ∀ (c : RegCpu) (x : Trap), let t := c.trapEntry x
    t = { c with psr := t.psr, sp0 := c.sp0 - 8, mem := t.mem, mod := t.mod, sb := t.sb, pc := t.pc } ∧
    PsrOnly c.psr t.psr [(1, false), (8, false), (9, false), (10, false)] ∧
    t.read32 (c.sp0 - 8) = c.pc ∧ t.read16 (c.sp0 - 4) = c.mod ∧ t.read16 (c.sp0 - 2) = c.psr ∧
    (∀ a, outside 8 (c.sp0 - 8) a → t.byteAt a = c.byteAt a) ∧
    (let desc := t.read32 (c.intbase + BitVec.ofNat 32 (4 * trapVector x))
     t.mod.toNat = desc.toNat % 65536 ∧ t.sb = t.read32 (BitVec.ofNat 32 t.mod.toNat) ∧
     t.pc = t.read32 (BitVec.ofNat 32 t.mod.toNat + 8) + BitVec.ofNat 32 (desc.toNat / 65536)) ∧
    (trapVector .ill = 4 ∧ trapVector .svc = 5 ∧ trapVector .dvz = 6 ∧ trapVector .flg = 7 ∧ trapVector .bpt = 8 ∧
      trapVector .trc = 9 ∧ trapVector .und = 10)

/-- The instructions of format 1 without operands (R293, R294, R296 to R298): `NOP` only moves `pc`; `WAIT` leaves every
register, also `pc`, so it repeats; `FLAG` traps when `F` is set, else only moves `pc`; `SVC` and `BPT` always trap, and the
saved `pc` is the address of the instruction's byte. Rests on passages that the spec marks as its own: R293 (D36, general
knowledge), R294 (D42, general knowledge); log 3. -/
def Obligations.NopWaitFlagSvcBpt : Prop :=
  ∀ s : State,
    exec .nop s = .next { s with reg := { s.reg with pc := s.reg.pc + 1 } } ∧ exec .wait s = .next s ∧
    (psrBit s.reg.psr 5 = true → Traps .flag s .flg) ∧
    (psrBit s.reg.psr 5 = false → exec .flag s = .next { s with reg := { s.reg with pc := s.reg.pc + 1 } }) ∧
    Traps .svc s .svc ∧ Traps .bpt s .bpt ∧
    (∀ x : Trap, (s.reg.trapEntry x).read32 (s.reg.trapEntry x).sp0 = s.reg.pc)

/-- What has no meaning as an instruction takes the undefined trap in every state (R133, R287, R295, R425): `RETI`, `DIA`, the
two rows of undefined encodings; the undefined string options; size code 10 in every format; the sizes that `ADDR`, `MOVXBW`,
`MOVZBW`, `MOVZiD`, `MOVXiD`, `BICPSR`, `BISPSR` do not have; an unassigned register code of `LPR` and `SPR`, once the operand is
resolved. Rests on passages that the spec marks as its own: R133 (D45), R287 (D36, general knowledge), R295 (D36, general
knowledge), R424 (D60), R425 (D45); log 3. -/
def Obligations.UndefinedInstructionsTrap : Prop :=
  ∀ (s : State) (u : UndefB10) (gen : Fin 32) (op : Fin 16) (i : Size) (x : BitVec 4) (g g1 g2 : Gen) (c : Cond) (d : Disp),
    (Traps .reti s .und ∧ Traps .dia s .und ∧ Traps (.undefinedB10 u) s .und ∧ Traps (.undefinedF3 gen op i) s .und) ∧
    (x &&& 0xC = 0x8 ∨ i = .undef ∨ (x &&& 0x1 = 0x1 ∧ i ≠ .b) →
      Traps (.movs x i) s .und ∧ Traps (.cmps x i) s .und ∧ Traps (.skps x i) s .und) ∧
    (Traps (.setcfg x .undef) s .und ∧ (∀ mk ∈ oneOperand x c d .undef, Traps (mk g) s .und) ∧
      ∀ mk ∈ .cmp .undef :: twoOperand .undef, Traps (mk g1 g2) s .und) ∧
    (i ≠ .d → Traps (.addr i g1 g2) s .und) ∧
    (i ≠ .b → Traps (.movxbw i g1 g2) s .und ∧ Traps (.movzbw i g1 g2) s .und) ∧
    (i = .undef ∨ i = .d → Traps (.movzid i g1 g2) s .und ∧ Traps (.movxid i g1 g2) s .und ∧
      Traps (.bicpsr i g) s .und ∧ Traps (.bispsr i g) s .und) ∧
    (∀ o, x ∈ [1, 2, 3, 4, 5, 6, 7, 11, 12] → i ≠ .undef → s.reg.resolve g = .ok o →
      Traps (.lpr x i g) s .und ∧ Traps (.spr x i g) s .und)

/-- `RETT` in supervisor mode (R286, R429): `pc`, then `mod` and all of `psr` from the frame on the stack the old `S` selects,
`sb` from the restored module's table, the displacement added to the stack pointer the new `S` selects. Rests on passages that
the spec marks as its own: R286 (D38, D37); log 3. -/
def Obligations.TrapReturnState : Prop :=
  ∀ (s : State) (d : Disp), s.reg.user = false → ∃ t : RegCpu, exec (.rett d) s = .next { s with reg := t } ∧
    t = { s.reg with pc := s.reg.read32 s.reg.sp, psr := s.reg.read16 (s.reg.sp + 6), mod := s.reg.read16 (s.reg.sp + 4),
                     sb := s.reg.read32 (BitVec.ofNat 32 t.mod.toNat), sp0 := t.sp0, sp1 := t.sp1 } ∧
    t.sp0 = s.reg.sp0 + (if psrBit s.reg.psr 9 then 0 else 8) + (if psrBit t.psr 9 then 0 else d.value) ∧
    t.sp1 = s.reg.sp1 + (if psrBit s.reg.psr 9 then 8 else 0) + (if psrBit t.psr 9 then d.value else 0)

/-- A `RETT 0` right after a trap entry gives back `pc`, the whole `psr`, `mod` and both stack pointers, whatever the mode and
the stack the trap came from (R286, R421, R429). Rests on passages that the spec marks as its own: R286 (D38, D37), R421 (D37,
general knowledge); log 3. -/
def Obligations.TrapReturnUndoesTrapEntry : Prop :=
  ∀ (s : State) (x : Trap), let c := s.reg.trapEntry x
    exec (.rett (.d1 0)) { s with reg := c } =
      .next { s with reg := { s.reg with mem := c.mem, sb := c.read32 (BitVec.ofNat 32 s.reg.mod.toNat) } }

/-- In user mode the privileged operations trap and are not performed (R426, R430). Rests on passages that the spec marks as
its own: R426 (D38); log 3. -/
def Obligations.PrivilegedOperationsTrapInUserMode : Prop :=
  ∀ (s : State) (g : Gen) (o : Opnd) (i : Size) (short : BitVec 4) (d : Disp), userMode s → s.reg.resolve g = .ok o →
    i ≠ .undef →
    Traps (.lpr 13 i g) s .ill ∧ Traps (.lpr 14 i g) s .ill ∧ Traps (.spr 13 i g) s .ill ∧ Traps (.spr 14 i g) s .ill ∧
    Traps (.bicpsr .w g) s .ill ∧ Traps (.bispsr .w g) s .ill ∧ Traps (.rett d) s .ill ∧ Traps (.setcfg short i) s .ill

/-- Whatever RegisterCPU instruction runs in user mode, the step either takes a trap or stays in user mode with `psr[15:8]`,
`intbase` and `cfg` as they were (R430). Rests on passages that the spec marks as its own: R47 (D31, general knowledge), R426
(D38), R421 (D37, general knowledge); log 3. -/
def Obligations.UserModeKeepsProtectedState : Prop :=
  ∀ s t : State, regNext s → userMode s → step s = .next t →
    (∃ x, t.reg = s.reg.trapEntry x) ∨ (userMode t ∧ t.reg.guardedState = s.reg.guardedState)

/-! ## RegisterCPU: arithmetic and logic (spec/46 to spec/49)

In the statements below `o1` and `o2` are the descriptors the two operands resolve to, `d` is the destination, `a` is the
value of the source, `c` the state after the source was read, `b` the destination's old value (R250, R269, R271). -/

/-- The four adds and subtracts (R336, R339, R342, R345, R348): the result modulo 2^(8n), `C` the carry out or the borrow, `F`
the signed overflow, every other flag kept. Rests on passages that the spec marks as its own: the head of spec/47 (D57,
general knowledge), R47 (D31, general knowledge), R41 (D53), R264 (D52, general knowledge), R271 (D60); log 3. -/
def Obligations.AddSubtractComplete : Prop :=
  ∀ (s : State) (i : Size) (g1 g2 : Gen) (o1 o2 : Opnd) (d : Dest), i ≠ .undef → wfGens i i g1 g2 = true →
    s.reg.resolve g1 = .ok o1 → s.reg.resolve g2 = .ok o2 → asDest o2 = .ok d →
    let c := s.reg.afterSource i o1
    let a := s.reg.srcValue i o1
    let b := c.destValue i d
    let cin := (psrBit s.reg.psr 0).toNat
    let out (v : Int) : Bool := decide (v < -2 ^ (i.bits - 1)) || decide (2 ^ (i.bits - 1) ≤ v)
    let len := 2 + g1.len + g2.len
    Updates (.add i g1 g2) s c i d len (b.toNat + a.toNat)
      [(0, decide (2 ^ i.bits ≤ b.toNat + a.toNat)), (5, out (signedOf i b + signedOf i a))] ∧
    Updates (.addc i g1 g2) s c i d len (b.toNat + a.toNat + cin)
      [(0, decide (2 ^ i.bits ≤ b.toNat + a.toNat + cin)), (5, out (signedOf i b + signedOf i a + cin))] ∧
    Updates (.sub i g1 g2) s c i d len (b.toNat - a.toNat)
      [(0, decide (b.toNat < a.toNat)), (5, out (signedOf i b - signedOf i a))] ∧
    Updates (.subc i g1 g2) s c i d len (b.toNat - a.toNat - cin)
      [(0, decide (b.toNat < a.toNat + cin)), (5, out (signedOf i b - signedOf i a - cin))]

/-- The bitwise operations and the product (R338, R341, R344, R347, R394); no flag is written. Rests on passages that the spec
marks as its own: the heads of spec/47 and spec/49 (D57, general knowledge), R48 (general knowledge: no flag written), R41
(D53), R264 (D52, general knowledge), R271 (D60); log 3. -/
def Obligations.LogicAndMultiplyComplete : Prop :=
  ∀ (s : State) (i : Size) (g1 g2 : Gen) (o1 o2 : Opnd) (d : Dest), i ≠ .undef → wfGens i i g1 g2 = true →
    s.reg.resolve g1 = .ok o1 → s.reg.resolve g2 = .ok o2 → asDest o2 = .ok d →
    let c := s.reg.afterSource i o1
    let a := s.reg.srcValue i o1
    let b := c.destValue i d
    Updates (.bic i g1 g2) s c i d (2 + g1.len + g2.len) (b &&& ~~~a).toNat [] ∧
    Updates (.orI i g1 g2) s c i d (2 + g1.len + g2.len) (b ||| a).toNat [] ∧
    Updates (.andI i g1 g2) s c i d (2 + g1.len + g2.len) (b &&& a).toNat [] ∧
    Updates (.xorI i g1 g2) s c i d (2 + g1.len + g2.len) (b ^^^ a).toNat [] ∧
    Updates (.mul i g1 g2) s c i d (3 + g1.len + g2.len) (b.toNat * a.toNat) []

/-- The compares (R312, R337): `Z`, `N`, `L` say equal, signed greater, unsigned greater of the first operand against the
second; no other flag, register or byte changes, except that top-of-stack operands are popped. Rests on passages that the spec
marks as its own: the heads of spec/46 and spec/47 (D57, general knowledge), R47 (D31, general knowledge), R264 (D52, general
knowledge), R271 (D60); log 3. -/
def Obligations.ComparesComplete : Prop :=
  ∀ (s : State) (i : Size) (g1 g2 : Gen) (o1 o2 : Opnd) (q : BitVec 4), i ≠ .undef →
    s.reg.resolve g1 = .ok o1 → s.reg.resolve g2 = .ok o2 →
    let Compares (ins : Instr) (c : RegCpu) (len : Nat) (a b : DWord) : Prop := ∃ t : RegCpu,
      exec ins s = .next { s with reg := t } ∧ t = { c with psr := t.psr, pc := s.reg.pc + BitVec.ofNat 32 len } ∧
      PsrOnly s.reg.psr t.psr
        [(6, decide (a = b)), (7, decide (signedOf i b < signedOf i a)), (2, decide (b.toNat < a.toNat))]
    Compares (.cmp i g1 g2) ((s.reg.afterSource i o1).afterSource i o2) (2 + g1.len + g2.len)
      (s.reg.srcValue i o1) ((s.reg.afterSource i o1).srcValue i o2) ∧
    Compares (.cmpq q i g1) (s.reg.afterSource i o1) (2 + g1.len) (lowBits i (q.signExtend 32)) (s.reg.srcValue i o1)

/-- The moves into one destination (R314, R317, R340, R343): the source, the quick value, the condition, the address; no flag
is written. Rests on passages that the spec marks as its own: R281 (D32, general knowledge), which gives the condition, R343
(D45), the heads of spec/46 and spec/47 (D57, general knowledge), R48 (general knowledge: no flag written), R41 (D53), R264
(D52, general knowledge), R271 (D60); log 3. -/
def Obligations.MovesComplete : Prop :=
  ∀ (s : State) (i : Size) (g1 g2 : Gen) (o1 o2 : Opnd) (d : Dest) (q : BitVec 4) (cond : Cond) (ea : DWord), i ≠ .undef →
    wfGens i i g1 g2 = true → s.reg.resolve g1 = .ok o1 → s.reg.resolve g2 = .ok o2 → asDest o2 = .ok d →
    Writes (.mov i g1 g2) s (s.reg.afterSource i o1) i d (2 + g1.len + g2.len) (s.reg.srcValue i o1).toNat [] ∧
    Writes (.movq q i g2) s s.reg i d (2 + g2.len) q.toInt [] ∧
    Writes (.scond cond i g2) s s.reg i d (2 + g2.len) (if condTrue cond s.reg.psr then 1 else 0) [] ∧
    (i = .d → s.reg.addrOf o1 = .ok ea → Writes (.addr i g1 g2) s s.reg .d d (2 + g1.len + g2.len) ea.toNat [])

/-- The extending moves (R390 to R393): sign or zero extension from the source's size to the destination's; no flag is
written. Rests on passages that the spec marks as its own: the head of spec/49 (D57, general knowledge), R390 (D45), R48
(general knowledge: no flag written), R41 (D53), R264 (D52, general knowledge), R271 (D60); log 3. -/
def Obligations.ExtendingMovesComplete : Prop :=
  ∀ (s : State) (i : Size) (g1 g2 : Gen) (o1 o2 : Opnd) (d : Dest),
    s.reg.resolve g1 = .ok o1 → s.reg.resolve g2 = .ok o2 → asDest o2 = .ok d →
    (wfGens .b .w g1 g2 = true →
      Writes (.movxbw .b g1 g2) s (s.reg.afterSource .b o1) .w d (3 + g1.len + g2.len) (signedOf .b (s.reg.srcValue .b o1)) [] ∧
      Writes (.movzbw .b g1 g2) s (s.reg.afterSource .b o1) .w d (3 + g1.len + g2.len) (s.reg.srcValue .b o1).toNat []) ∧
    (i = .b ∨ i = .w → wfGens i .d g1 g2 = true →
      Writes (.movxid i g1 g2) s (s.reg.afterSource i o1) .d d (3 + g1.len + g2.len) (signedOf i (s.reg.srcValue i o1)) [] ∧
      Writes (.movzid i g1 g2) s (s.reg.afterSource i o1) .d d (3 + g1.len + g2.len) (s.reg.srcValue i o1).toNat [])

/-- The unary operations (R373 to R376): `NEG` writes `C` unless the source is 0 and `F` for the most negative source only,
`ABS` writes `F` for that source only, `NOT` and `COM` write no flag. Rests on passages that the spec marks as its own: R373
(D46), the head of spec/48 (D57, general knowledge), R47 (D31, general knowledge), R41 (D53), R264 (D52, general knowledge),
R271 (D60); log 3. -/
def Obligations.UnaryOperationsComplete : Prop :=
  ∀ (s : State) (i : Size) (g1 g2 : Gen) (o1 o2 : Opnd) (d : Dest), i ≠ .undef → wfGens i i g1 g2 = true →
    s.reg.resolve g1 = .ok o1 → s.reg.resolve g2 = .ok o2 → asDest o2 = .ok d →
    let c := s.reg.afterSource i o1
    let a := s.reg.srcValue i o1
    let len := 3 + g1.len + g2.len
    let lowest := decide (signedOf i a = -2 ^ (i.bits - 1))
    Writes (.neg i g1 g2) s c i d len (-a.toNat) [(0, decide (a ≠ 0)), (5, lowest)] ∧
    Writes (.notI i g1 g2) s c i d len (a ^^^ 1).toNat [] ∧
    Writes (.absI i g1 g2) s c i d len (signedOf i a).natAbs [(5, lowest)] ∧
    Writes (.com i g1 g2) s c i d len (-1 - a.toNat) []

/-- `ADDQ` and `ACB` (R311, R315): the quick value is signed; `ADDQ` writes `C` and `F` as an add of its `B`-bit pattern;
`ACB` writes no flag and branches, relative to itself, when the truncated result is not zero. Rests on passages that the spec
marks as its own: the head of spec/46 (D57, general knowledge), R47 (D31, general knowledge), R41 (D53), R264 (D52, general
knowledge); log 3. -/
def Obligations.QuickArithmeticCompletes : Prop :=
  ∀ (s : State) (i : Size) (g : Gen) (o : Opnd) (d : Dest) (q : BitVec 4) (disp : Disp), i ≠ .undef →
    s.reg.resolve g = .ok o → asDest o = .ok d →
    let a := s.reg.destValue i d
    let len := 2 + g.len + disp.len
    Updates (.addq q i g) s s.reg i d (2 + g.len) (a.toNat + q.toInt)
      [(0, decide (2 ^ i.bits ≤ (a.toNat : Int) + q.toInt % 2 ^ i.bits)),
       (5, decide (signedOf i a + q.toInt < -2 ^ (i.bits - 1)) || decide (2 ^ (i.bits - 1) ≤ signedOf i a + q.toInt))] ∧
    (∃ t : RegCpu, exec (.acb q i g disp) s = .next { s with reg := t } ∧
      ((t.destValue i d).toNat : Int) = (a.toNat + q.toInt) % 2 ^ i.bits ∧
      t.pc = (if t.destValue i d = 0 then s.reg.pc + BitVec.ofNat 32 len else s.reg.pc + disp.value) ∧
      t.psr = s.reg.psr ∧ t.sp0 = s.reg.sp0 ∧ t.sp1 = s.reg.sp1 ∧ DestFrame s.reg t i d (s.reg.updateAddr d))

/-- The shifts and the rotate (R362 to R365), for every signed byte count `k`: a left shift multiplies, an arithmetic right
shift is a floor division of the signed value, a logical one of the unsigned value, a rotate moves bit `j` to bit `j + k`
modulo the width; no flag is written. Rests on passages that the spec marks as its own: R363 (D46), the head of spec/48 (D57,
general knowledge), R48 (general knowledge: no flag written), R41 (D53), R264 (D52, general knowledge), R271 (D60); log 3. -/
def Obligations.ShiftsComplete : Prop :=
  ∀ (s : State) (i : Size) (g1 g2 : Gen) (o1 o2 : Opnd) (d : Dest), i ≠ .undef → wfGens .b i g1 g2 = true →
    s.reg.resolve g1 = .ok o1 → s.reg.resolve g2 = .ok o2 → asDest o2 = .ok d →
    let c := s.reg.afterSource .b o1
    let k := signedOf .b (s.reg.srcValue .b o1)
    let b := c.destValue i d
    let len := 3 + g1.len + g2.len
    Updates (.ash i g1 g2) s c i d len (if 0 ≤ k then b.toNat * 2 ^ k.toNat else signedOf i b / 2 ^ (-k).toNat) [] ∧
    Updates (.lsh i g1 g2) s c i d len (if 0 ≤ k then b.toNat * 2 ^ k.toNat else b.toNat / 2 ^ (-k).toNat) [] ∧
    (∃ v : Int, Updates (.rot i g1 g2) s c i d len v [] ∧ 0 ≤ v ∧ v < 2 ^ i.bits ∧
      ∀ j < i.bits, v.toNat.testBit ((j + k) % i.bits).toNat = b.getLsbD j)

/-- The six bit instructions (R346, R367 to R372): bit `o mod 32` of a register, else bit `o mod 8` of the byte at `ea +
floor(o / 8)`; `F` gets the old bit, the new one is written, nothing else changes. Rests on passages that the spec marks as
its own: R346 (D54), R370 (general knowledge), the heads of spec/47 and spec/48 (D57, general knowledge), R47 (D31, general
knowledge), R264 (D52, general knowledge), R271 (D60); log 3. -/
def Obligations.BitInstructionsComplete : Prop :=
  ∀ (s : State) (i : Size) (g1 g2 : Gen) (o1 o2 : Opnd) (d : Dest), i ≠ .undef →
    s.reg.resolve g1 = .ok o1 → s.reg.resolve g2 = .ok o2 → asDest o2 = .ok d →
    let c := s.reg.afterSource i o1
    let k := signedOf i (s.reg.srcValue i o1)
    let place := c.bitLocate k d
    let len := 3 + g1.len + g2.len
    let Bits (ins : Instr) (len : Nat) (new : Bool) : Prop := ∃ t : RegCpu, exec ins s = .next { s with reg := t } ∧
      t.bitAt place = new ∧ PsrOnly s.reg.psr t.psr [(5, c.bitAt place)] ∧
      t = { c with psr := t.psr, pc := s.reg.pc + BitVec.ofNat 32 len, r := t.r, mem := t.mem } ∧
      (∀ (r : Fin 8) (j : Nat), place ≠ .reg r j → (t.reg r).getLsbD j = (c.reg r).getLsbD j) ∧
      (∀ (x : DWord) (j : Nat), place ≠ .mem x j → (t.byteAt x).getLsbD j = (c.byteAt x).getLsbD j)
    (∀ r, d = .reg r → place = .reg r (k % 32).toNat) ∧
    (∀ ea, d = .mem ea ∨ d = .tos ∧ ea = c.sp → place = .mem (ea + BitVec.ofInt 32 (k / 8)) (k % 8).toNat) ∧
    Bits (.tbit i g1 g2) (2 + g1.len + g2.len) (c.bitAt place) ∧ Bits (.sbit i g1 g2) len true ∧
    Bits (.sbiti i g1 g2) len true ∧ Bits (.cbit i g1 g2) len false ∧ Bits (.cbiti i g1 g2) len false ∧
    Bits (.ibit i g1 g2) len (!c.bitAt place)

/-- The four divisions (R397 to R401) on signed operands, with a divisor that is not 0: `QUO` truncates, `REM` goes with it,
`DIV` rounds down, `MOD` goes with it; no flag is written. Rests on passages that the spec marks as its own: R401 (D46,
general knowledge), the head of spec/49 (D57, general knowledge), R48 (general knowledge: no flag written), R41 (D53), R264
(D52, general knowledge), R271 (D60); log 3. -/
def Obligations.DivisionsComplete : Prop :=
  ∀ (s : State) (i : Size) (g1 g2 : Gen) (o1 o2 : Opnd) (d : Dest), i ≠ .undef → wfGens i i g1 g2 = true →
    s.reg.resolve g1 = .ok o1 → s.reg.resolve g2 = .ok o2 → asDest o2 = .ok d →
    let c := s.reg.afterSource i o1
    let v := signedOf i (s.reg.srcValue i o1)
    let x := signedOf i (c.destValue i d)
    v ≠ 0 → ∃ q r m e : Int,
      Updates (.quo i g1 g2) s c i d (3 + g1.len + g2.len) q [] ∧ Updates (.rem i g1 g2) s c i d (3 + g1.len + g2.len) r [] ∧
      Updates (.modI i g1 g2) s c i d (3 + g1.len + g2.len) m [] ∧ Updates (.divI i g1 g2) s c i d (3 + g1.len + g2.len) e [] ∧
      q * v + r = x ∧ r.natAbs < v.natAbs ∧ (r = 0 ∨ r.sign = x.sign) ∧ e * v + m = x ∧ m.natAbs < v.natAbs ∧ (m = 0 ∨ m.sign = v.sign)

/-- A zero divisor takes the divide-by-zero trap in all four divisions, with nothing computed or written (R401, R427). Rests
on passages that the spec marks as its own: R401 (D46, general knowledge), the head of spec/49 (D57, general knowledge), R421
(D37, general knowledge); log 3. -/
def Obligations.DivisionByZeroTraps : Prop :=
  ∀ (s : State) (i : Size) (g1 g2 : Gen) (o1 o2 : Opnd) (d : Dest), i ≠ .undef → wfGens i i g1 g2 = true →
    s.reg.resolve g1 = .ok o1 → s.reg.resolve g2 = .ok o2 → asDest o2 = .ok d → s.reg.srcValue i o1 = 0 →
    Traps (.quo i g1 g2) s .dvz ∧ Traps (.rem i g1 g2) s .dvz ∧ Traps (.modI i g1 g2) s .dvz ∧ Traps (.divI i g1 g2) s .dvz

/-! ## RegisterCPU: processor registers and single-operand control -/

/-- `SPR` (R313, R316): each of the seven registers, stored at the operand's size; the two privileged ones in supervisor mode
only. Rests on passages that the spec marks as its own: R316 (D58), the head of spec/46 (D57, general knowledge), R426 (D38),
R41 (D53), R264 (D52, general knowledge); log 3. -/
def Obligations.StoreProcessorRegisterCompletes : Prop :=
  ∀ (s : State) (i : Size) (g : Gen) (o : Opnd) (d : Dest), i ≠ .undef → s.reg.resolve g = .ok o → asDest o = .ok d →
    let Stores (code : BitVec 4) (v : Nat) : Prop := Writes (.spr code i g) s s.reg i d (2 + g.len) v []
    Stores 0 (s.reg.psr.toNat % 256) ∧ Stores 8 s.reg.fp.toNat ∧ Stores 9 s.reg.sp.toNat ∧ Stores 10 s.reg.sb.toNat ∧
    Stores 15 s.reg.mod.toNat ∧
    (s.reg.user = false → Stores 13 s.reg.psr.toNat ∧ Stores 14 s.reg.intbase.toNat)

/-- `LPR` (R316, R318): each of the seven registers, written at the operand's size with its other bits kept; the two
privileged ones in supervisor mode only. The state compared with is the one after the source was read. That a load of `PSR`
stores the reserved bits too is the model's reading of R47 and R316 against the note of vector G5.W18 (log 14, DEDUCED). Rests
on passages that the spec marks as its own: R316 (D58), the head of spec/46 (D57, general knowledge), R426 (D38), R47 (D31,
general knowledge), R264 (D52, general knowledge); log 3. -/
def Obligations.LoadProcessorRegisterCompletes : Prop :=
  ∀ (s : State) (i : Size) (g : Gen) (o : Opnd), i ≠ .undef → wfGen i g = true → s.reg.resolve g = .ok o →
    let v := (s.reg.srcValue i o).toNat
    let n := 2 ^ i.bits
    let c := { s.reg.afterSource i o with pc := s.reg.pc + BitVec.ofNat 32 (2 + g.len) }
    let part (old : Nat) : Nat := old / n * n + v
    let Loads (code : BitVec 4) (t : RegCpu) : Prop := exec (.lpr code i g) s = .next { s with reg := t }
    (∃ p : Word, Loads 0 { c with psr := p } ∧ p.toNat = c.psr.toNat / 256 * 256 + v % 256) ∧
    (∃ x : DWord, Loads 8 { c with fp := x } ∧ x.toNat = part c.fp.toNat) ∧
    (∃ t : RegCpu, Loads 9 t ∧ t = { c with sp0 := t.sp0, sp1 := t.sp1 } ∧ t.sp.toNat = part c.sp.toNat ∧
      t.otherSp = c.otherSp) ∧
    (∃ x : DWord, Loads 10 { c with sb := x } ∧ x.toNat = part c.sb.toNat) ∧
    (∃ m : Word, Loads 15 { c with mod := m } ∧
      m.toNat = if i = .b then c.mod.toNat / 256 * 256 + v else v % 65536) ∧
    (s.reg.user = false →
      (∃ p : Word, Loads 13 { c with psr := p } ∧ p.toNat = if i = .b then c.psr.toNat / 256 * 256 + v else v % 65536) ∧
      (∃ x : DWord, Loads 14 { c with intbase := x } ∧ x.toNat = part c.intbase.toNat))

/-- `BICPSR`, `BISPSR` (R322, R324) and `SETCFG` (R360): the byte forms touch the low byte of `psr` in either mode, the word
forms all of it in supervisor mode; `SETCFG` in supervisor mode writes `cfg` and nothing else. Rests on passages that the spec
marks as its own: R322 (D38), R360 (D38), the heads of spec/46 and spec/48 (D57, general knowledge), R47 (D31, general
knowledge), R264 (D52, general knowledge); log 3. -/
def Obligations.StatusUpdatesComplete : Prop :=
  ∀ (s : State) (g : Gen) (o : Opnd) (i : Size) (short : BitVec 4), s.reg.resolve g = .ok o →
    let Sets (n : Size) (ins : Instr) (f : Nat → Bool) : Prop := ∃ p : Word,
      exec ins s = .next { s with reg := { s.reg.afterSource n o with
        psr := p, pc := s.reg.pc + BitVec.ofNat 32 (2 + g.len) } } ∧ ∀ k < 16, psrBit p k = f k
    let vb := s.reg.srcValue .b o
    let vw := s.reg.srcValue .w o
    Sets .b (.bicpsr .b g) (fun k => psrBit s.reg.psr k && !(decide (k < 8) && vb.getLsbD k)) ∧
    Sets .b (.bispsr .b g) (fun k => psrBit s.reg.psr k || decide (k < 8) && vb.getLsbD k) ∧
    (s.reg.user = false →
      Sets .w (.bicpsr .w g) (fun k => psrBit s.reg.psr k && !vw.getLsbD k) ∧
      Sets .w (.bispsr .w g) (fun k => psrBit s.reg.psr k || vw.getLsbD k) ∧
      (i ≠ .undef → exec (.setcfg short i) s = .next { s with reg := { s.reg with cfg := short, pc := s.reg.pc + 3 } }))

/-- `JUMP`, `JSR`, `CASE`, `ADJSP` (R323, R325 to R327): the operand's address, computed before the push of the return
address, and the undefined trap where the operand of `JUMP` is a register or an immediate; a signed offset from the
instruction itself; a signed amount taken off `SP` after a top-of-stack operand is popped. Rests on passages that the spec
marks as its own: the head of spec/46 (D57, general knowledge), R264 (D52, general knowledge), R270 (D44); log 3. -/
def Obligations.JumpsAndAdjustComplete : Prop :=
  ∀ (s : State) (i : Size) (g : Gen) (o : Opnd), i ≠ .undef → s.reg.resolve g = .ok o →
    (∀ ea, s.reg.addrOf o = .ok ea →
      exec (.jump i g) s = .next { s with reg := { s.reg with pc := ea } } ∧
      ∃ t : RegCpu, exec (.jsr i g) s = .next { s with reg := t } ∧
        t = { s.reg with pc := ea, sp0 := t.sp0, sp1 := t.sp1, mem := t.mem } ∧ t.sp = s.reg.sp - 4 ∧
        t.otherSp = s.reg.otherSp ∧ t.read32 t.sp = s.reg.pc + BitVec.ofNat 32 (2 + g.len) ∧
        (∀ x, outside 4 t.sp x → t.byteAt x = s.reg.byteAt x)) ∧
    (∀ k v, o = .reg k ∨ o = .imm v → Traps (.jump i g) s .und) ∧
    (let c := s.reg.afterSource i o
     let v := signedOf i (s.reg.srcValue i o)
     exec (.caseI i g) s = .next { s with reg := { c with pc := s.reg.pc + BitVec.ofInt 32 v } } ∧
     ∃ t : RegCpu, exec (.adjsp i g) s = .next { s with reg := t } ∧
       t = { c with pc := s.reg.pc + BitVec.ofNat 32 (2 + g.len), sp0 := t.sp0, sp1 := t.sp1 } ∧
       t.sp = c.sp - BitVec.ofInt 32 v ∧ t.otherSp = c.otherSp)

/-! ## RegisterCPU: strings (spec/48_regcpu_fmt5_fmt6.md) -/

/-- One step of a string instruction (R355 to R359) with defined options: a zero count ends it; an element that meets the stop
condition ends it with `F` set and is not consumed; `CMPS` also ends at a difference; else the element is consumed, the
pointers move by its size in the chosen direction, and the instruction ends when the count reaches zero and leaves `pc` alone
when it does not. Rests on passages that the spec marks as its own: R355 (D47), R356 (D61); log 3. -/
def Obligations.StringStepsComplete : Prop :=
  ∀ (s : State) (opts : BitVec 4) (i : Size), stringDefined opts i = true →
    let c := s.reg
    let step (p : DWord) : DWord := if opts.getLsbD 1 then p - BitVec.ofNat 32 i.bytes else p + BitVec.ofNat 32 i.bytes
    let x := c.memRead (c.reg 1) i
    let e : DWord := if opts.getLsbD 0 then BitVec.ofNat 32 (c.byteAt (c.reg 3 + x)).toNat else x
    let stop : Bool := opts.getLsbD 2 && (if opts.getLsbD 3 then decide (e = lowBits i (c.reg 4)) else decide (e ≠ lowBits i (c.reg 4)))
    let e2 := c.memRead (c.reg 2) i
    let zero := decide (c.reg 0 = 0)
    let last := decide (c.reg 0 - 1 = 0)
    let Ends (ins : Instr) (flags : List (Nat × Bool)) : Prop := ∃ t : RegCpu, exec ins s = .next { s with reg := t } ∧
      t = { c with psr := t.psr, pc := c.pc + 3 } ∧ PsrOnly c.psr t.psr flags
    let Consumes (ins : Instr) (movesDst stores : Bool) (now : List (Nat × Bool)) : Prop := ∃ t : RegCpu,
      exec ins s = .next { s with reg := t } ∧
      t = { c with psr := t.psr, pc := if last then c.pc + 3 else c.pc, r := t.r, mem := t.mem } ∧
      t.reg 0 = c.reg 0 - 1 ∧ t.reg 1 = step (c.reg 1) ∧ t.reg 2 = (if movesDst then step (c.reg 2) else c.reg 2) ∧
      (∀ k : Fin 8, 3 ≤ k.val → t.reg k = c.reg k) ∧
      t.mem = (if stores then (c.memWrite (c.reg 2) i e).mem else c.mem) ∧
      PsrOnly c.psr t.psr (if last then (5, false) :: now else now)
    (zero = true → Ends (.movs opts i) [(5, false)] ∧ Ends (.skps opts i) [(5, false)] ∧
      Ends (.cmps opts i) [(5, false), (6, true), (7, false), (2, false)]) ∧
    (zero = false → stop = true →
      Ends (.movs opts i) [(5, true)] ∧ Ends (.cmps opts i) [(5, true)] ∧ Ends (.skps opts i) [(5, true)]) ∧
    (zero = false → stop = false →
      Consumes (.movs opts i) true true [] ∧ Consumes (.skps opts i) false false [] ∧
      (e = e2 → Consumes (.cmps opts i) true false [(6, true), (7, false), (2, false)]) ∧
      (e ≠ e2 → Ends (.cmps opts i) [(5, false), (6, false), (7, decide (signedOf i e2 < signedOf i e)),
        (2, decide (e2.toNat < e.toNat))]))

/-! ## RegisterCPU: what stops and what is undefined -/

/-- `Fatal(NotImplemented)` for opcodes (R377, R378, R386 to R389, R395, R396, R424 step 1, R440): the eight mnemonics without
semantics end in it in every state, whatever their operands are; a step whose instruction has its mnemonic in the set
`REGCPU_UNIMPLEMENTED` ends in it whatever the instruction is. Model's choices in it: the eight end in it also where
`par.unimplemented` leaves them out, where R377 asks a model to supply semantics of its own and this model supplies none (log 8,
DEDUCED); with size code 10 the clause is about terms that no word decodes to, because those words trap as undefined (log 21,
DEDUCED). Rests on passages that the spec marks as its own: R377 (D40,
general knowledge), R386 (general knowledge), R424 (D60), R440 (D40, D59); log 3. -/
def Obligations.UnimplementedInstructionsStop : Prop :=
  ∀ (s : State) (i : Size) (g1 g2 : Gen),
    (exec (.addp i g1 g2) s = .fault (.notImplementedOpcode .addp) ∧ exec (.subp i g1 g2) s = .fault (.notImplementedOpcode .subp) ∧
      exec (.movm i g1 g2) s = .fault (.notImplementedOpcode .movm) ∧ exec (.cmpm i g1 g2) s = .fault (.notImplementedOpcode .cmpm) ∧
      exec (.inss i g1 g2) s = .fault (.notImplementedOpcode .inss) ∧ exec (.exts i g1 g2) s = .fault (.notImplementedOpcode .exts) ∧
      exec (.mei i g1 g2) s = .fault (.notImplementedOpcode .mei) ∧ exec (.dei i g1 g2) s = .fault (.notImplementedOpcode .dei)) ∧
    (∀ (ins : Instr) (rest : List Byte) (m : RegMnemonic), regNext s → decodeBytes s.reg.fetched = .ok (ins, rest) →
      mnemonicOf ins = some m → m ∈ s.par.unimplemented → step s = .fault (.notImplementedOpcode m))

/-- Operands that have no meaning, in the instructions of formats 2, 3, 4, 6 and 7 at every size they have (R260, R266, R270,
R424, R425 (i), (j)): the reserved mode traps as undefined, a scaled mode ends in `Fatal(NotImplemented)`, the first operand's
fault hides the second's; an immediate destination, and a register or an immediate where an address is needed, trap as
undefined (for `SPR` of a privileged register in user mode the privilege trap of R424 step 4 comes first). Rests on passages that
the spec marks as its own: R260 (D39), R266 (D39), R270 (D44), R424 (D60), R425 (D45); log 3. -/
def Obligations.OperandFaults : Prop :=
  ∀ (s : State) (i : Size) (g : Gen) (o : Opnd) (k : Fin 4) (v : Imm) (r : Fin 8) (x : BitVec 4) (c : Cond) (d : Disp),
    i ≠ .undef →
    (∀ mk ∈ .cmp i :: (twoOperand i ++ fixedSize),
      Traps (mk .reserved g) s .und ∧ exec (mk (.scaled k) g) s = .fault (.notImplementedMode k) ∧
      (s.reg.resolve g = .ok o → Traps (mk g .reserved) s .und ∧ exec (mk g (.scaled k)) s = .fault (.notImplementedMode k))) ∧
    (∀ mk ∈ twoOperand i ++ fixedSize, s.reg.resolve g = .ok o → Traps (mk g (.imm v)) s .und) ∧
    (∀ mk ∈ oneOperand x c d i ++ psrOperand,
      Traps (mk .reserved) s .und ∧ exec (mk (.scaled k)) s = .fault (.notImplementedMode k)) ∧
    (Traps (.addq x i (.imm v)) s .und ∧ Traps (.scond c i (.imm v)) s .und ∧ Traps (.acb x i (.imm v) d) s .und ∧
      Traps (.movq x i (.imm v)) s .und ∧
      (s.reg.user = false ∨ (x ≠ 13 ∧ x ≠ 14) → Traps (.spr x i (.imm v)) s .und)) ∧
    (∀ mk ∈ [Instr.jump i, .jsr i, .cxpd i], Traps (mk (.reg r)) s .und ∧ Traps (mk (.imm v)) s .und) ∧
    (s.reg.resolve g = .ok o → Traps (.addr .d (.reg r) g) s .und ∧ Traps (.addr .d (.imm v) g) s .und)
end

