-- ==== Sys2Proof/Laws/Encoding.lean ====
section
/-!
SUPPORT. The pieces of an encoding decode to what they were made from: field codes, displacements, immediates, general
operands, field words.
-/
namespace Sys2Proof.Laws
open Sys2Proof

/-! ## Field codes -/

@[simp] theorem aluOp_code (o : AluOp) : AluOp.ofCode o.code = o := by cases o <;> rfl
@[simp] theorem ySrc_code (o : YSrc) : YSrc.ofCode o.code = o := by cases o <;> rfl
@[simp] theorem shiftCode_code (o : ShiftCode) : ShiftCode.ofCode o.code = o := by cases o <;> rfl
@[simp] theorem size_code (n : Size) : Size.ofCode n.code = n := by cases n <;> rfl
@[simp] theorem cond_code (c : Cond) : Cond.ofCode c.code = c := by cases c <;> rfl

theorem aluOp_code_lt (o : AluOp) : o.code < 8 := by cases o <;> decide
theorem ySrc_code_lt (o : YSrc) : o.code < 4 := by cases o <;> decide
theorem shiftCode_code_lt (o : ShiftCode) : o.code < 4 := by cases o <;> decide
theorem size_code_lt (n : Size) : n.code < 4 := by cases n <;> decide
theorem cond_code_lt (c : Cond) : c.code < 16 := by cases c <;> decide

theorem gen_code_lt (g : Gen) : g.code < 32 := by
  cases g
  case reg r => have := r.isLt; simp only [Gen.code]; omega
  case rel r d => have := r.isLt; simp only [Gen.code]; omega
  case memRel b d1 d2 => cases b <;> simp [Gen.code]
  case space b d => cases b <;> simp [Gen.code]
  case scaled k => have := k.isLt; simp only [Gen.code]; omega
  all_goals simp [Gen.code]

/-! ## Displacements and immediates -/

/-- A byte is the number it was made from, when that number fits. -/
theorem byte_toNat {n : Nat} (h : n < 256) : (BitVec.ofNat 8 n).toNat = n := by simp; omega

/-- A displacement decodes from its own bytes, and the bytes after it are left (R243, R245). -/
@[simp] theorem decodeDisp_bytes (d : Disp) (rest : List Byte) : decodeDisp (d.bytes ++ rest) = .ok (d, rest) := by
  cases d
  case d1 v =>
    have hv := v.isLt
    have e : (BitVec.ofNat 8 v.toNat).toNat = v.toNat := byte_toNat (by omega)
    simp only [Disp.bytes, List.cons_append, List.nil_append, decodeDisp, e]
    rw [if_pos hv]
    simp
  case d2 v =>
    have hv := v.isLt
    have e1 : (BitVec.ofNat 8 ((0x8000 + v.toNat) / 256)).toNat = 128 + v.toNat / 256 := by
      rw [byte_toNat (by omega)]; omega
    have e0 : (BitVec.ofNat 8 (0x8000 + v.toNat)).toNat = v.toNat % 256 := by simp; omega
    simp only [Disp.bytes, bytesBE2, List.cons_append, List.nil_append, decodeDisp, e1, e0]
    rw [if_neg (by omega), if_pos (by omega)]
    congr 3
    apply BitVec.eq_of_toNat_eq; simp; omega
  case d4 v =>
    have hv := v.isLt
    have e3 : (BitVec.ofNat 8 ((0xC0000000 + v.toNat) / 16777216)).toNat = 192 + v.toNat / 16777216 := by
      rw [byte_toNat (by omega)]; omega
    have e2 : (BitVec.ofNat 8 ((0xC0000000 + v.toNat) / 65536)).toNat = v.toNat / 65536 % 256 := by simp; omega
    have e1 : (BitVec.ofNat 8 ((0xC0000000 + v.toNat) / 256)).toNat = v.toNat / 256 % 256 := by simp; omega
    have e0 : (BitVec.ofNat 8 (0xC0000000 + v.toNat)).toNat = v.toNat % 256 := by simp; omega
    simp only [Disp.bytes, bytesBE4, List.cons_append, List.nil_append, decodeDisp, e3, e2, e1, e0]
    rw [if_neg (by omega), if_neg (by omega)]
    congr 3
    apply BitVec.eq_of_toNat_eq; simp; omega

@[simp] theorem decodeDisp_bytes_nil (d : Disp) : decodeDisp d.bytes = .ok (d, []) := by
  simpa using decodeDisp_bytes d []

/-- A displacement has as many bytes as its length says (R244). -/
@[simp] theorem disp_bytes_length (d : Disp) : d.bytes.length = d.len := by cases d <;> rfl

/-- An immediate decodes from its own bytes (R261). -/
theorem decodeImm_bytes {n : Size} {v : Imm} (h : wfImm n v = true) (rest : List Byte) :
    decodeImm n (v.bytes ++ rest) = .ok (v, rest) := by
  have double : ∀ v : DWord, BitVec.ofNat 32 ((BitVec.ofNat 8 (v.toNat / 16777216)).toNat * 16777216 +
      (BitVec.ofNat 8 (v.toNat / 65536)).toNat * 65536 + (BitVec.ofNat 8 (v.toNat / 256)).toNat * 256 +
      (BitVec.ofNat 8 v.toNat).toNat) = v := by
    intro v; have := v.isLt; apply BitVec.eq_of_toNat_eq; simp; omega
  cases n <;> cases v <;> simp [wfImm] at h
  · rfl
  · next v =>
    simp only [Imm.bytes, bytesBE2, List.cons_append, List.nil_append, decodeImm]
    congr 3
    have := v.isLt; apply BitVec.eq_of_toNat_eq; simp; omega
  · next v => simp only [Imm.bytes, bytesBE4, List.cons_append, List.nil_append, decodeImm, double]
  · next v => simp only [Imm.bytes, bytesBE4, List.cons_append, List.nil_append, decodeImm, double]

@[simp] theorem imm_bytes_length (v : Imm) : v.bytes.length = v.len := by cases v <;> rfl

/-! ## General operands -/

theorem decodeOne_bytes (mk : Disp → Gen) (d : Disp) (rest : List Byte) :
    decodeOne mk (d.bytes ++ rest) = .ok (mk d, rest) := by simp [decodeOne]

theorem decodeTwo_bytes (mk : Disp → Disp → Gen) (d1 d2 : Disp) (rest : List Byte) :
    decodeTwo mk (d1.bytes ++ d2.bytes ++ rest) = .ok (mk d1 d2, rest) := by
  simp [decodeTwo, decodeOne, List.append_assoc]

/-- A general operand decodes from its code and its extension bytes (R252, R268). -/
theorem decodeGen_bytes {n : Size} {g : Gen} (h : wfGen n g = true) (rest : List Byte) :
    decodeGen g.code n (g.bytes ++ rest) = .ok (g, rest) := by
  cases g
  case reg r =>
    show decodeGen r.val n ([] ++ rest) = _
    rw [decodeGen, if_pos r.isLt]
    · simp
    all_goals have := r.isLt; omega
  case rel r d =>
    have := r.isLt
    show decodeGen (8 + r.val) n (d.bytes ++ rest) = _
    rw [decodeGen, if_neg (by omega), if_pos (by omega), decodeOne_bytes]
    · simp
    all_goals omega
  case memRel b d1 d2 => cases b <;> exact decodeTwo_bytes _ _ _ _
  case reserved => rfl
  case imm v => simp [Gen.code, Gen.bytes, decodeGen, decodeImm_bytes (show wfImm n v = true from h)]
  case abs d => exact decodeOne_bytes _ _ _
  case ext d1 d2 => exact decodeTwo_bytes _ _ _ _
  case tos => rfl
  case space b d => cases b <;> exact decodeOne_bytes _ _ _
  case scaled k =>
    have hk : ∀ k : Fin 4, ∀ bs, decodeGen (28 + k.val) n bs = .ok (.scaled k, bs) := by
      intro k bs
      rcases k with ⟨_ | _ | _ | _ | k, hk⟩
      · rfl
      · rfl
      · rfl
      · rfl
      · omega
    exact hk k rest

/-- An operand has as many extension bytes as its length says (R268). -/
@[simp] theorem gen_bytes_length (g : Gen) : g.bytes.length = g.len := by
  cases g <;> simp [Gen.bytes, Gen.len]

/-- Two operands decode from their extensions, the first one's first (R120). -/
theorem withGens_bytes (mk : Gen → Gen → Instr) {n1 n2 : Size} {g1 g2 : Gen} (h : wfGens n1 n2 g1 g2 = true)
    (rest : List Byte) :
    withGens mk g1.code n1 g2.code n2 (g1.bytes ++ g2.bytes ++ rest) = .ok (mk g1 g2, rest) := by
  simp only [wfGens, Bool.and_eq_true] at h
  simp [withGens, withGen, List.append_assoc, decodeGen_bytes h.1, decodeGen_bytes h.2]

theorem withGen_bytes (mk : Gen → Instr) {n : Size} {g : Gen} (h : wfGen n g = true) (rest : List Byte) :
    withGen mk g.code n (g.bytes ++ rest) = .ok (mk g, rest) := by
  simp [withGen, decodeGen_bytes h]

/-! ## Field words -/

/-- The field word is read back from its two bytes (R121). -/
theorem withWord_wordLE (k : Nat → List Byte → Except DecodeError (Instr × List Byte)) {w : Nat} (h : w < 65536)
    (rest : List Byte) : withWord k (wordLE w ++ rest) = k w rest := by
  simp only [wordLE, List.cons_append, List.nil_append, withWord]
  congr 1
  simp; omega

@[simp] theorem wordLE_length (w : Nat) : (wordLE w).length = 2 := rfl

end Sys2Proof.Laws
end

