-- ==== Sys2Proof/Laws/Memory.lean ====
section
/-!
SUPPORT. The laws of cells, bytes and words of memory: a read after a write, every other place untouched, the canonical
form kept.
-/
namespace Sys2Proof.Laws
open Sys2Proof Sys2Proof.Machine

/-! ## Cells -/

@[simp] theorem cellRead_nil {w : Nat} (f : Nat → BitVec w) (a : Nat) : cellRead f ([] : Cells w) a = f a := rfl

theorem cellRead_cellErase_other {w : Nat} (f : Nat → BitVec w) (m : Cells w) (a b : Nat) (h : b ≠ a) :
    cellRead f (cellErase m a) b = cellRead f m b := by
  induction m with
  | nil => simp [cellErase]
  | cons c m ih =>
    obtain ⟨k, x⟩ := c
    simp only [cellErase, List.filter_cons, bne_iff_ne, ne_eq] at ih ⊢
    by_cases hk : k = a <;> by_cases hkb : k = b <;> simp_all [cellRead]

theorem cellRead_cellInsert {w : Nat} (f : Nat → BitVec w) (m : Cells w) (a b : Nat) (v : BitVec w)
    (ha : ∀ c ∈ m, c.1 ≠ a) : cellRead f (cellInsert m a v) b = if b = a then v else cellRead f m b := by
  induction m with
  | nil => by_cases hb : b = a <;> simp [cellInsert, cellRead, hb]; intro h; exact absurd h.symm hb
  | cons c m ih =>
    obtain ⟨k, x⟩ := c
    have hk : k ≠ a := ha (k, x) (by simp)
    have ih := ih (fun c hc => ha c (by simp [hc]))
    simp only [cellInsert]
    split <;> by_cases hb : b = a <;> simp_all [cellRead]
    intro h; exact absurd h.symm hb

theorem not_mem_cellErase {w : Nat} (m : Cells w) (a : Nat) : ∀ c ∈ cellErase m a, c.1 ≠ a := by
  intro c hc
  simp only [cellErase, List.mem_filter, bne_iff_ne] at hc
  exact hc.2

/-- A read after a write: the value at the place written, what was there before at every other. -/
theorem cellRead_cellWrite {w : Nat} (f : Nat → BitVec w) (m : Cells w) (a b : Nat) (v : BitVec w) :
    cellRead f (cellWrite m a v) b = if b = a then v else cellRead f m b := by
  rw [cellWrite, cellRead_cellInsert _ _ _ _ _ (not_mem_cellErase m a)]
  split
  · rfl
  · next h => exact cellRead_cellErase_other _ _ _ _ h

@[simp] theorem cellRead_cellWrite_same {w : Nat} (f : Nat → BitVec w) (m : Cells w) (a : Nat) (v : BitVec w) :
    cellRead f (cellWrite m a v) a = v := by simp [cellRead_cellWrite]

theorem cellRead_cellWrite_other {w : Nat} (f : Nat → BitVec w) (m : Cells w) (a b : Nat) (v : BitVec w) (h : b ≠ a) :
    cellRead f (cellWrite m a v) b = cellRead f m b := by simp [cellRead_cellWrite, h]

theorem mem_cellInsert {w : Nat} (m : Cells w) (a : Nat) (v : BitVec w) (c : Nat × BitVec w) :
    c ∈ cellInsert m a v ↔ c = (a, v) ∨ c ∈ m := by
  induction m with
  | nil => simp [cellInsert]
  | cons d m ih =>
    obtain ⟨k, x⟩ := d
    simp only [cellInsert]
    split
    · simp
    · simp only [List.mem_cons, ih]; tauto

theorem cellInsert_sorted {w : Nat} (m : Cells w) (a : Nat) (v : BitVec w) (h : m.Pairwise (fun x y => x.1 < y.1))
    (ha : ∀ c ∈ m, c.1 ≠ a) : (cellInsert m a v).Pairwise (fun x y => x.1 < y.1) := by
  induction m with
  | nil => simp [cellInsert]
  | cons d m ih =>
    obtain ⟨k, x⟩ := d
    rw [List.pairwise_cons] at h
    have hk : k ≠ a := ha (k, x) (by simp)
    simp only [cellInsert]
    split
    · next hlt =>
      rw [List.pairwise_cons, List.pairwise_cons]
      refine ⟨?_, h⟩
      intro c hc
      rcases List.mem_cons.1 hc with rfl | hc
      · exact hlt
      · exact lt_trans hlt (h.1 c hc)
    · next hlt =>
      rw [List.pairwise_cons]
      refine ⟨?_, ih h.2 (fun c hc => ha c (by simp [hc]))⟩
      intro c hc
      rcases (mem_cellInsert _ _ _ _).1 hc with rfl | hc
      · simp only; omega
      · exact h.1 c hc

/-- A write keeps the canonical form. -/
theorem cellWrite_wf {w size : Nat} (m : Cells w) (a : Nat) (v : BitVec w) (h : CellWf size m) (ha : a < size) :
    CellWf size (cellWrite m a v) := by
  refine ⟨cellInsert_sorted _ _ _ (h.1.filter _) (not_mem_cellErase m a), fun c hc => ?_⟩
  rcases (mem_cellInsert _ _ _ _).1 hc with rfl | hc
  · exact ha
  · exact h.2 c (List.mem_of_mem_filter hc)

@[simp] theorem cellWf_nil {w size : Nat} : CellWf size ([] : Cells w) := by simp [CellWf]

/-! ## StackCPU words -/

/-- `ProgRead` after `ProgWrite` (R72, R73). -/
theorem progRead_progWrite (c : StackCpu) (a b v : Word) :
    (c.progWrite a v).progRead b = if b = a then v else c.progRead b := by
  simp [StackCpu.progRead, StackCpu.progWrite, cellRead_cellWrite, BitVec.toNat_inj]

/-- A word written to the data-stack space (R74). -/
theorem wroteDs_cellWrite (c u : StackCpu) (p : Byte) (v : Word) (h : u.ds = cellWrite c.ds p.toNat v) : WroteDs c u p v := by
  intro x; simp [StackCpu.dsRead, h, cellRead_cellWrite, BitVec.toNat_inj]

/-- A word written to the return-stack space (R74). -/
theorem wroteRs_cellWrite (c u : StackCpu) (p : Byte) (v : Word) (h : u.rs = cellWrite c.rs p.toNat v) : WroteRs c u p v := by
  intro x; simp [StackCpu.rsRead, h, cellRead_cellWrite, BitVec.toNat_inj]

/-! ## RegisterCPU bytes and words -/

theorem byteAt_putByte (c : RegCpu) (a b : DWord) (v : Byte) :
    (c.putByte a v).byteAt b = if b = a then v else c.byteAt b := by
  simp [RegCpu.byteAt, RegCpu.putByte, cellRead_cellWrite, BitVec.toNat_inj]

@[simp] theorem byteAt_putByte_same (c : RegCpu) (a : DWord) (v : Byte) : (c.putByte a v).byteAt a = v := by
  simp [byteAt_putByte]

theorem putByte_wf (c : RegCpu) (a : DWord) (v : Byte) (h : CellWf 4294967296 c.mem) :
    CellWf 4294967296 (c.putByte a v).mem := cellWrite_wf _ _ _ h a.isLt

theorem write16_wf (c : RegCpu) (a : DWord) (v : Word) (h : CellWf 4294967296 c.mem) :
    CellWf 4294967296 (c.write16 a v).mem := putByte_wf _ _ _ (putByte_wf _ _ _ h)

theorem write32_wf (c : RegCpu) (a v : DWord) (h : CellWf 4294967296 c.mem) :
    CellWf 4294967296 (c.write32 a v).mem := write16_wf _ _ _ (write16_wf _ _ _ h)

/-- Every store of RegisterCPU keeps the canonical form. -/
theorem memWrite_wf (c : RegCpu) (a : DWord) (n : Size) (v : DWord) (h : CellWf 4294967296 c.mem) :
    CellWf 4294967296 (c.memWrite a n v).mem := by
  cases n
  · exact putByte_wf _ _ _ h
  · exact write16_wf _ _ _ h
  · exact write32_wf _ _ _ h
  · exact write32_wf _ _ _ h

theorem byteAt_write16 (c : RegCpu) (a b : DWord) (v : Word) :
    (c.write16 a v).byteAt b =
      if b = a + 1 then v.extractLsb' 8 8 else if b = a then v.setWidth 8 else c.byteAt b := by
  simp [RegCpu.write16, byteAt_putByte]

theorem byteAt_write32 (c : RegCpu) (a b v : DWord) :
    (c.write32 a v).byteAt b =
      if b = a + 3 then v.extractLsb' 24 8 else if b = a + 2 then v.extractLsb' 16 8
      else if b = a + 1 then v.extractLsb' 8 8 else if b = a then v.setWidth 8 else c.byteAt b := by
  have h3 : a + 2 + 1 = a + 3 := by rw [BitVec.add_assoc]; rfl
  have e : ∀ k j : Nat, k + j ≤ 16 → (v.extractLsb' 16 16).extractLsb' k j = v.extractLsb' (16 + k) j := by
    intro k j hk; ext i hi; simp [Nat.add_assoc]; intro; omega
  have e2 : (v.extractLsb' 16 16).setWidth 8 = v.extractLsb' 16 8 := by ext i hi; simp; intro; omega
  have e3 : (v.setWidth 16).extractLsb' 8 8 = v.extractLsb' 8 8 := by ext i hi; simp; intro; omega
  have e4 : (v.setWidth 16).setWidth 8 = v.setWidth 8 := by ext i hi; simp
  simp only [RegCpu.write32, byteAt_write16, h3, e 8 8 (by decide), e2, e3, e4]

/-- An address moved by a nonzero amount is another address. -/
theorem addr_ne_add (a k : DWord) (h : k ≠ 0) : a ≠ a + k := by
  intro e
  apply h
  have : a + 0 = a + k := by simpa using e
  exact ((BitVec.add_right_inj a).1 this).symm

/-- A word put together from its bytes. -/
theorem append_bytes (v : Word) : v.extractLsb' 8 8 ++ v.setWidth 8 = v := by
  apply BitVec.eq_of_getLsbD_eq
  intro i hi
  rw [BitVec.getLsbD_append]
  by_cases h : i < 8
  · simp [h]
  · have e : 8 + (i - 8) = i := by omega
    simp only [h, if_false, BitVec.getLsbD_extractLsb', e]
    simp; omega

/-- A double word put together from its halves. -/
theorem append_halves (v : DWord) : v.extractLsb' 16 16 ++ v.setWidth 16 = v := by
  apply BitVec.eq_of_getLsbD_eq
  intro i hi
  rw [BitVec.getLsbD_append]
  by_cases h : i < 16
  · simp [h]
  · have e : 16 + (i - 16) = i := by omega
    simp only [h, if_false, BitVec.getLsbD_extractLsb', e]
    simp; omega

/-- `MemRead(addr, 2)` after `MemWrite(addr, 2, v)` (R80, R81). -/
@[simp] theorem read16_write16 (c : RegCpu) (a : DWord) (v : Word) : (c.write16 a v).read16 a = v := by
  have h1 : a ≠ a + 1 := addr_ne_add a 1 (by decide)
  simp only [RegCpu.read16, byteAt_write16, if_true, h1, if_false, append_bytes]

/-- A store of two bytes elsewhere leaves a word alone. -/
theorem read16_write16_other (c : RegCpu) (a b : DWord) (v : Word) (h0 : b ≠ a) (h1 : b ≠ a + 1) (h2 : b + 1 ≠ a)
    (h3 : b + 1 ≠ a + 1) : (c.write16 a v).read16 b = c.read16 b := by
  rw [RegCpu.read16, byteAt_write16, byteAt_write16, if_neg h3, if_neg h2, if_neg h1, if_neg h0, RegCpu.read16]

/-- `MemRead(addr, 4)` after `MemWrite(addr, 4, v)` (R80, R81). -/
@[simp] theorem read32_write32 (c : RegCpu) (a v : DWord) : (c.write32 a v).read32 a = v := by
  have e1 : a + 2 + 1 = a + 3 := by rw [BitVec.add_assoc]; rfl
  have h : ∀ j k : DWord, j ≠ k → a + j ≠ a + k := fun j k hjk he => hjk ((BitVec.add_right_inj a).1 he)
  have z : ∀ k : DWord, k ≠ 0 → a ≠ a + k := addr_ne_add a
  have hw : (c.write32 a v).read16 a = v.setWidth 16 := by
    rw [RegCpu.write32, read16_write16_other _ _ _ _ (z 2 (by decide)) (by rw [e1]; exact z 3 (by decide))
      (h 1 2 (by decide)) (by rw [e1]; exact h 1 3 (by decide)), read16_write16]
  rw [RegCpu.read32, hw, RegCpu.write32, read16_write16, append_halves]

theorem putByte_mem_congr {c d : RegCpu} (h : c.mem = d.mem) (a : DWord) (v : Byte) :
    (c.putByte a v).mem = (d.putByte a v).mem := by simp only [RegCpu.putByte, h]

theorem write16_mem_congr {c d : RegCpu} (h : c.mem = d.mem) (a : DWord) (v : Word) :
    (c.write16 a v).mem = (d.write16 a v).mem := putByte_mem_congr (putByte_mem_congr h _ _) _ _

theorem write32_mem_congr {c d : RegCpu} (h : c.mem = d.mem) (a v : DWord) :
    (c.write32 a v).mem = (d.write32 a v).mem := write16_mem_congr (write16_mem_congr h _ _) _ _

/-- What a store leaves in memory depends on the memory only. -/
theorem memWrite_mem_congr {c d : RegCpu} (h : c.mem = d.mem) (a : DWord) (n : Size) (v : DWord) :
    (c.memWrite a n v).mem = (d.memWrite a n v).mem := by
  cases n
  · exact putByte_mem_congr h _ _
  · exact write16_mem_congr h _ _
  · exact write32_mem_congr h _ _
  · exact write32_mem_congr h _ _

/-- `MemRead` after `MemWrite` at the same place and size (R80, R81). -/
@[simp] theorem memRead_memWrite (c : RegCpu) (a : DWord) (n : Size) (v : DWord) :
    (c.memWrite a n v).memRead a n = lowBits n v := by
  cases n
  · simp [RegCpu.memRead, RegCpu.memWrite, lowBits]
  · simp [RegCpu.memRead, RegCpu.memWrite, lowBits]
  · exact read32_write32 c a v
  · exact read32_write32 c a v

/-- A store leaves every byte outside it alone (R81). -/
theorem byteAt_memWrite_outside (c : RegCpu) (a x : DWord) (n : Size) (v : DWord) (h : outside n.bytes a x) :
    (c.memWrite a n v).byteAt x = c.byteAt x := by
  have h0 : x ≠ a := by simpa using h 0 (by cases n <;> decide)
  cases n
  · simp [RegCpu.memWrite, byteAt_putByte, h0]
  · have h1 := h 1 (by decide)
    simp [RegCpu.memWrite, byteAt_write16, h0, h1]
  all_goals
    have h1 := h 1 (by decide)
    have h2 := h 2 (by decide)
    have h3 := h 3 (by decide)
    simp [RegCpu.memWrite, byteAt_write32, h0, h1, h2, h3]

end Sys2Proof.Laws
end

