-- ==== Sys2Proof/Laws/State.lean ====
section
/-!
SUPPORT. One lemma per field per update of the two cores' records, so that no later proof unfolds a record update.
-/
namespace Sys2Proof.Laws
open Sys2Proof Sys2Proof.Machine

/-! ## StackCPU -/

@[simp] theorem progWrite_pc (c : StackCpu) (a v : Word) : (c.progWrite a v).pc = c.pc := rfl
@[simp] theorem progWrite_t (c : StackCpu) (a v : Word) : (c.progWrite a v).t = c.t := rfl
@[simp] theorem progWrite_n (c : StackCpu) (a v : Word) : (c.progWrite a v).n = c.n := rfl
@[simp] theorem progWrite_i (c : StackCpu) (a v : Word) : (c.progWrite a v).i = c.i := rfl
@[simp] theorem progWrite_j (c : StackCpu) (a v : Word) : (c.progWrite a v).j = c.j := rfl
@[simp] theorem progWrite_k (c : StackCpu) (a v : Word) : (c.progWrite a v).k = c.k := rfl
@[simp] theorem progWrite_md (c : StackCpu) (a v : Word) : (c.progWrite a v).md = c.md := rfl
@[simp] theorem progWrite_sr (c : StackCpu) (a v : Word) : (c.progWrite a v).sr = c.sr := rfl
@[simp] theorem progWrite_bdata (c : StackCpu) (a v : Word) : (c.progWrite a v).bdata = c.bdata := rfl
@[simp] theorem progWrite_bdir (c : StackCpu) (a v : Word) : (c.progWrite a v).bdir = c.bdir := rfl
@[simp] theorem progWrite_bmask (c : StackCpu) (a v : Word) : (c.progWrite a v).bmask = c.bmask := rfl
@[simp] theorem progWrite_btri (c : StackCpu) (a v : Word) : (c.progWrite a v).btri = c.btri := rfl
@[simp] theorem progWrite_xdata (c : StackCpu) (a v : Word) : (c.progWrite a v).xdata = c.xdata := rfl
@[simp] theorem progWrite_xdir (c : StackCpu) (a v : Word) : (c.progWrite a v).xdir = c.xdir := rfl
@[simp] theorem progWrite_xmask (c : StackCpu) (a v : Word) : (c.progWrite a v).xmask = c.xmask := rfl
@[simp] theorem progWrite_xtri (c : StackCpu) (a v : Word) : (c.progWrite a v).xtri = c.xtri := rfl
@[simp] theorem progWrite_carry (c : StackCpu) (a v : Word) : (c.progWrite a v).carry = c.carry := rfl
@[simp] theorem progWrite_timesmode (c : StackCpu) (a v : Word) : (c.progWrite a v).timesmode = c.timesmode := rfl
@[simp] theorem progWrite_intreq (c : StackCpu) (a v : Word) : (c.progWrite a v).intreq = c.intreq := rfl
@[simp] theorem progWrite_prog (c : StackCpu) (a v : Word) : (c.progWrite a v).prog = cellWrite c.prog a.toNat v := rfl
@[simp] theorem progWrite_ds (c : StackCpu) (a v : Word) : (c.progWrite a v).ds = c.ds := rfl
@[simp] theorem progWrite_rs (c : StackCpu) (a v : Word) : (c.progWrite a v).rs = c.rs := rfl
@[simp] theorem progWrite_io (c : StackCpu) (a v : Word) : (c.progWrite a v).io = c.io := rfl

@[simp] theorem dPushN_pc (c : StackCpu) : c.dPushN.pc = c.pc := rfl
@[simp] theorem dPushN_t (c : StackCpu) : c.dPushN.t = c.t := rfl
@[simp] theorem dPushN_n (c : StackCpu) : c.dPushN.n = c.n := rfl
@[simp] theorem dPushN_i (c : StackCpu) : c.dPushN.i = c.i := rfl
@[simp] theorem dPushN_j (c : StackCpu) : c.dPushN.j = c.j := rfl
@[simp] theorem dPushN_k (c : StackCpu) : c.dPushN.k = c.k - 1 := rfl
@[simp] theorem dPushN_md (c : StackCpu) : c.dPushN.md = c.md := rfl
@[simp] theorem dPushN_sr (c : StackCpu) : c.dPushN.sr = c.sr := rfl
@[simp] theorem dPushN_bdata (c : StackCpu) : c.dPushN.bdata = c.bdata := rfl
@[simp] theorem dPushN_bdir (c : StackCpu) : c.dPushN.bdir = c.bdir := rfl
@[simp] theorem dPushN_bmask (c : StackCpu) : c.dPushN.bmask = c.bmask := rfl
@[simp] theorem dPushN_btri (c : StackCpu) : c.dPushN.btri = c.btri := rfl
@[simp] theorem dPushN_xdata (c : StackCpu) : c.dPushN.xdata = c.xdata := rfl
@[simp] theorem dPushN_xdir (c : StackCpu) : c.dPushN.xdir = c.xdir := rfl
@[simp] theorem dPushN_xmask (c : StackCpu) : c.dPushN.xmask = c.xmask := rfl
@[simp] theorem dPushN_xtri (c : StackCpu) : c.dPushN.xtri = c.xtri := rfl
@[simp] theorem dPushN_carry (c : StackCpu) : c.dPushN.carry = c.carry := rfl
@[simp] theorem dPushN_timesmode (c : StackCpu) : c.dPushN.timesmode = c.timesmode := rfl
@[simp] theorem dPushN_intreq (c : StackCpu) : c.dPushN.intreq = c.intreq := rfl
@[simp] theorem dPushN_prog (c : StackCpu) : c.dPushN.prog = c.prog := rfl
@[simp] theorem dPushN_ds (c : StackCpu) : c.dPushN.ds = cellWrite c.ds c.k.toNat c.n := rfl
@[simp] theorem dPushN_rs (c : StackCpu) : c.dPushN.rs = c.rs := rfl
@[simp] theorem dPushN_io (c : StackCpu) : c.dPushN.io = c.io := rfl

@[simp] theorem dPopN_pc (c : StackCpu) : c.dPopN.pc = c.pc := rfl
@[simp] theorem dPopN_t (c : StackCpu) : c.dPopN.t = c.t := rfl
@[simp] theorem dPopN_n (c : StackCpu) : c.dPopN.n = c.dsRead (c.k + 1) := rfl
@[simp] theorem dPopN_i (c : StackCpu) : c.dPopN.i = c.i := rfl
@[simp] theorem dPopN_j (c : StackCpu) : c.dPopN.j = c.j := rfl
@[simp] theorem dPopN_k (c : StackCpu) : c.dPopN.k = c.k + 1 := rfl
@[simp] theorem dPopN_md (c : StackCpu) : c.dPopN.md = c.md := rfl
@[simp] theorem dPopN_sr (c : StackCpu) : c.dPopN.sr = c.sr := rfl
@[simp] theorem dPopN_bdata (c : StackCpu) : c.dPopN.bdata = c.bdata := rfl
@[simp] theorem dPopN_bdir (c : StackCpu) : c.dPopN.bdir = c.bdir := rfl
@[simp] theorem dPopN_bmask (c : StackCpu) : c.dPopN.bmask = c.bmask := rfl
@[simp] theorem dPopN_btri (c : StackCpu) : c.dPopN.btri = c.btri := rfl
@[simp] theorem dPopN_xdata (c : StackCpu) : c.dPopN.xdata = c.xdata := rfl
@[simp] theorem dPopN_xdir (c : StackCpu) : c.dPopN.xdir = c.xdir := rfl
@[simp] theorem dPopN_xmask (c : StackCpu) : c.dPopN.xmask = c.xmask := rfl
@[simp] theorem dPopN_xtri (c : StackCpu) : c.dPopN.xtri = c.xtri := rfl
@[simp] theorem dPopN_carry (c : StackCpu) : c.dPopN.carry = c.carry := rfl
@[simp] theorem dPopN_timesmode (c : StackCpu) : c.dPopN.timesmode = c.timesmode := rfl
@[simp] theorem dPopN_intreq (c : StackCpu) : c.dPopN.intreq = c.intreq := rfl
@[simp] theorem dPopN_prog (c : StackCpu) : c.dPopN.prog = c.prog := rfl
@[simp] theorem dPopN_ds (c : StackCpu) : c.dPopN.ds = c.ds := rfl
@[simp] theorem dPopN_rs (c : StackCpu) : c.dPopN.rs = c.rs := rfl
@[simp] theorem dPopN_io (c : StackCpu) : c.dPopN.io = c.io := rfl

@[simp] theorem rPush_pc (c : StackCpu) (v : Word) : (c.rPush v).pc = c.pc := rfl
@[simp] theorem rPush_t (c : StackCpu) (v : Word) : (c.rPush v).t = c.t := rfl
@[simp] theorem rPush_n (c : StackCpu) (v : Word) : (c.rPush v).n = c.n := rfl
@[simp] theorem rPush_i (c : StackCpu) (v : Word) : (c.rPush v).i = v := rfl
@[simp] theorem rPush_j (c : StackCpu) (v : Word) : (c.rPush v).j = c.j - 1 := rfl
@[simp] theorem rPush_k (c : StackCpu) (v : Word) : (c.rPush v).k = c.k := rfl
@[simp] theorem rPush_md (c : StackCpu) (v : Word) : (c.rPush v).md = c.md := rfl
@[simp] theorem rPush_sr (c : StackCpu) (v : Word) : (c.rPush v).sr = c.sr := rfl
@[simp] theorem rPush_bdata (c : StackCpu) (v : Word) : (c.rPush v).bdata = c.bdata := rfl
@[simp] theorem rPush_bdir (c : StackCpu) (v : Word) : (c.rPush v).bdir = c.bdir := rfl
@[simp] theorem rPush_bmask (c : StackCpu) (v : Word) : (c.rPush v).bmask = c.bmask := rfl
@[simp] theorem rPush_btri (c : StackCpu) (v : Word) : (c.rPush v).btri = c.btri := rfl
@[simp] theorem rPush_xdata (c : StackCpu) (v : Word) : (c.rPush v).xdata = c.xdata := rfl
@[simp] theorem rPush_xdir (c : StackCpu) (v : Word) : (c.rPush v).xdir = c.xdir := rfl
@[simp] theorem rPush_xmask (c : StackCpu) (v : Word) : (c.rPush v).xmask = c.xmask := rfl
@[simp] theorem rPush_xtri (c : StackCpu) (v : Word) : (c.rPush v).xtri = c.xtri := rfl
@[simp] theorem rPush_carry (c : StackCpu) (v : Word) : (c.rPush v).carry = c.carry := rfl
@[simp] theorem rPush_timesmode (c : StackCpu) (v : Word) : (c.rPush v).timesmode = c.timesmode := rfl
@[simp] theorem rPush_intreq (c : StackCpu) (v : Word) : (c.rPush v).intreq = c.intreq := rfl
@[simp] theorem rPush_prog (c : StackCpu) (v : Word) : (c.rPush v).prog = c.prog := rfl
@[simp] theorem rPush_ds (c : StackCpu) (v : Word) : (c.rPush v).ds = c.ds := rfl
@[simp] theorem rPush_rs (c : StackCpu) (v : Word) : (c.rPush v).rs = cellWrite c.rs c.j.toNat c.i := rfl
@[simp] theorem rPush_io (c : StackCpu) (v : Word) : (c.rPush v).io = c.io := rfl

@[simp] theorem rPop_pc (c : StackCpu) : c.rPop.pc = c.pc := rfl
@[simp] theorem rPop_t (c : StackCpu) : c.rPop.t = c.t := rfl
@[simp] theorem rPop_n (c : StackCpu) : c.rPop.n = c.n := rfl
@[simp] theorem rPop_i (c : StackCpu) : c.rPop.i = c.rsRead (c.j + 1) := rfl
@[simp] theorem rPop_j (c : StackCpu) : c.rPop.j = c.j + 1 := rfl
@[simp] theorem rPop_k (c : StackCpu) : c.rPop.k = c.k := rfl
@[simp] theorem rPop_md (c : StackCpu) : c.rPop.md = c.md := rfl
@[simp] theorem rPop_sr (c : StackCpu) : c.rPop.sr = c.sr := rfl
@[simp] theorem rPop_bdata (c : StackCpu) : c.rPop.bdata = c.bdata := rfl
@[simp] theorem rPop_bdir (c : StackCpu) : c.rPop.bdir = c.bdir := rfl
@[simp] theorem rPop_bmask (c : StackCpu) : c.rPop.bmask = c.bmask := rfl
@[simp] theorem rPop_btri (c : StackCpu) : c.rPop.btri = c.btri := rfl
@[simp] theorem rPop_xdata (c : StackCpu) : c.rPop.xdata = c.xdata := rfl
@[simp] theorem rPop_xdir (c : StackCpu) : c.rPop.xdir = c.xdir := rfl
@[simp] theorem rPop_xmask (c : StackCpu) : c.rPop.xmask = c.xmask := rfl
@[simp] theorem rPop_xtri (c : StackCpu) : c.rPop.xtri = c.xtri := rfl
@[simp] theorem rPop_carry (c : StackCpu) : c.rPop.carry = c.carry := rfl
@[simp] theorem rPop_timesmode (c : StackCpu) : c.rPop.timesmode = c.timesmode := rfl
@[simp] theorem rPop_intreq (c : StackCpu) : c.rPop.intreq = c.intreq := rfl
@[simp] theorem rPop_prog (c : StackCpu) : c.rPop.prog = c.prog := rfl
@[simp] theorem rPop_ds (c : StackCpu) : c.rPop.ds = c.ds := rfl
@[simp] theorem rPop_rs (c : StackCpu) : c.rPop.rs = c.rs := rfl
@[simp] theorem rPop_io (c : StackCpu) : c.rPop.io = c.io := rfl

@[simp] theorem pushTN_pc (c : StackCpu) : c.pushTN.pc = c.pc := rfl
@[simp] theorem pushTN_t (c : StackCpu) : c.pushTN.t = c.t := rfl
@[simp] theorem pushTN_n (c : StackCpu) : c.pushTN.n = c.t := rfl
@[simp] theorem pushTN_i (c : StackCpu) : c.pushTN.i = c.i := rfl
@[simp] theorem pushTN_j (c : StackCpu) : c.pushTN.j = c.j := rfl
@[simp] theorem pushTN_k (c : StackCpu) : c.pushTN.k = c.k - 1 := rfl
@[simp] theorem pushTN_md (c : StackCpu) : c.pushTN.md = c.md := rfl
@[simp] theorem pushTN_sr (c : StackCpu) : c.pushTN.sr = c.sr := rfl
@[simp] theorem pushTN_bdata (c : StackCpu) : c.pushTN.bdata = c.bdata := rfl
@[simp] theorem pushTN_bdir (c : StackCpu) : c.pushTN.bdir = c.bdir := rfl
@[simp] theorem pushTN_bmask (c : StackCpu) : c.pushTN.bmask = c.bmask := rfl
@[simp] theorem pushTN_btri (c : StackCpu) : c.pushTN.btri = c.btri := rfl
@[simp] theorem pushTN_xdata (c : StackCpu) : c.pushTN.xdata = c.xdata := rfl
@[simp] theorem pushTN_xdir (c : StackCpu) : c.pushTN.xdir = c.xdir := rfl
@[simp] theorem pushTN_xmask (c : StackCpu) : c.pushTN.xmask = c.xmask := rfl
@[simp] theorem pushTN_xtri (c : StackCpu) : c.pushTN.xtri = c.xtri := rfl
@[simp] theorem pushTN_carry (c : StackCpu) : c.pushTN.carry = c.carry := rfl
@[simp] theorem pushTN_timesmode (c : StackCpu) : c.pushTN.timesmode = c.timesmode := rfl
@[simp] theorem pushTN_intreq (c : StackCpu) : c.pushTN.intreq = c.intreq := rfl
@[simp] theorem pushTN_prog (c : StackCpu) : c.pushTN.prog = c.prog := rfl
@[simp] theorem pushTN_ds (c : StackCpu) : c.pushTN.ds = cellWrite c.ds c.k.toNat c.n := rfl
@[simp] theorem pushTN_rs (c : StackCpu) : c.pushTN.rs = c.rs := rfl
@[simp] theorem pushTN_io (c : StackCpu) : c.pushTN.io = c.io := rfl

@[simp] theorem callTo_pc (c : StackCpu) (v : Word) : (c.callTo v).pc = v := rfl
@[simp] theorem callTo_t (c : StackCpu) (v : Word) : (c.callTo v).t = c.t := rfl
@[simp] theorem callTo_n (c : StackCpu) (v : Word) : (c.callTo v).n = c.n := rfl
@[simp] theorem callTo_i (c : StackCpu) (v : Word) : (c.callTo v).i = c.savedWord := rfl
@[simp] theorem callTo_j (c : StackCpu) (v : Word) : (c.callTo v).j = c.j - 1 := rfl
@[simp] theorem callTo_k (c : StackCpu) (v : Word) : (c.callTo v).k = c.k := rfl
@[simp] theorem callTo_md (c : StackCpu) (v : Word) : (c.callTo v).md = c.md := rfl
@[simp] theorem callTo_sr (c : StackCpu) (v : Word) : (c.callTo v).sr = c.sr := rfl
@[simp] theorem callTo_bdata (c : StackCpu) (v : Word) : (c.callTo v).bdata = c.bdata := rfl
@[simp] theorem callTo_bdir (c : StackCpu) (v : Word) : (c.callTo v).bdir = c.bdir := rfl
@[simp] theorem callTo_bmask (c : StackCpu) (v : Word) : (c.callTo v).bmask = c.bmask := rfl
@[simp] theorem callTo_btri (c : StackCpu) (v : Word) : (c.callTo v).btri = c.btri := rfl
@[simp] theorem callTo_xdata (c : StackCpu) (v : Word) : (c.callTo v).xdata = c.xdata := rfl
@[simp] theorem callTo_xdir (c : StackCpu) (v : Word) : (c.callTo v).xdir = c.xdir := rfl
@[simp] theorem callTo_xmask (c : StackCpu) (v : Word) : (c.callTo v).xmask = c.xmask := rfl
@[simp] theorem callTo_xtri (c : StackCpu) (v : Word) : (c.callTo v).xtri = c.xtri := rfl
@[simp] theorem callTo_carry (c : StackCpu) (v : Word) : (c.callTo v).carry = c.carry := rfl
@[simp] theorem callTo_timesmode (c : StackCpu) (v : Word) : (c.callTo v).timesmode = c.timesmode := rfl
@[simp] theorem callTo_intreq (c : StackCpu) (v : Word) : (c.callTo v).intreq = c.intreq := rfl
@[simp] theorem callTo_prog (c : StackCpu) (v : Word) : (c.callTo v).prog = c.prog := rfl
@[simp] theorem callTo_ds (c : StackCpu) (v : Word) : (c.callTo v).ds = c.ds := rfl
@[simp] theorem callTo_rs (c : StackCpu) (v : Word) : (c.callTo v).rs = cellWrite c.rs c.j.toNat c.i := rfl
@[simp] theorem callTo_io (c : StackCpu) (v : Word) : (c.callTo v).io = c.io := rfl

@[simp] theorem timesBegin_pc (c : StackCpu) : c.timesBegin.pc = c.pc := rfl
@[simp] theorem timesBegin_t (c : StackCpu) : c.timesBegin.t = c.t := rfl
@[simp] theorem timesBegin_n (c : StackCpu) : c.timesBegin.n = c.n := rfl
@[simp] theorem timesBegin_i (c : StackCpu) : c.timesBegin.i = c.i := rfl
@[simp] theorem timesBegin_j (c : StackCpu) : c.timesBegin.j = c.j - 1 := rfl
@[simp] theorem timesBegin_k (c : StackCpu) : c.timesBegin.k = c.k := rfl
@[simp] theorem timesBegin_md (c : StackCpu) : c.timesBegin.md = c.md := rfl
@[simp] theorem timesBegin_sr (c : StackCpu) : c.timesBegin.sr = c.sr := rfl
@[simp] theorem timesBegin_bdata (c : StackCpu) : c.timesBegin.bdata = c.bdata := rfl
@[simp] theorem timesBegin_bdir (c : StackCpu) : c.timesBegin.bdir = c.bdir := rfl
@[simp] theorem timesBegin_bmask (c : StackCpu) : c.timesBegin.bmask = c.bmask := rfl
@[simp] theorem timesBegin_btri (c : StackCpu) : c.timesBegin.btri = c.btri := rfl
@[simp] theorem timesBegin_xdata (c : StackCpu) : c.timesBegin.xdata = c.xdata := rfl
@[simp] theorem timesBegin_xdir (c : StackCpu) : c.timesBegin.xdir = c.xdir := rfl
@[simp] theorem timesBegin_xmask (c : StackCpu) : c.timesBegin.xmask = c.xmask := rfl
@[simp] theorem timesBegin_xtri (c : StackCpu) : c.timesBegin.xtri = c.xtri := rfl
@[simp] theorem timesBegin_carry (c : StackCpu) : c.timesBegin.carry = c.carry := rfl
@[simp] theorem timesBegin_timesmode (c : StackCpu) : c.timesBegin.timesmode = true := rfl
@[simp] theorem timesBegin_intreq (c : StackCpu) : c.timesBegin.intreq = c.intreq := rfl
@[simp] theorem timesBegin_prog (c : StackCpu) : c.timesBegin.prog = c.prog := rfl
@[simp] theorem timesBegin_ds (c : StackCpu) : c.timesBegin.ds = c.ds := rfl
@[simp] theorem timesBegin_rs (c : StackCpu) : c.timesBegin.rs = cellWrite c.rs c.j.toNat c.i := rfl
@[simp] theorem timesBegin_io (c : StackCpu) : c.timesBegin.io = c.io := rfl

@[simp] theorem fold_pc (c : StackCpu) (op : AluOp) (a y : Word) (cin : Bool) : (c.fold op a y cin).pc = c.pc := rfl
@[simp] theorem fold_t (c : StackCpu) (op : AluOp) (a y : Word) (cin : Bool) : (c.fold op a y cin).t = (aluFn op a y cin).r := rfl
@[simp] theorem fold_n (c : StackCpu) (op : AluOp) (a y : Word) (cin : Bool) : (c.fold op a y cin).n = c.n := rfl
@[simp] theorem fold_i (c : StackCpu) (op : AluOp) (a y : Word) (cin : Bool) : (c.fold op a y cin).i = c.i := rfl
@[simp] theorem fold_j (c : StackCpu) (op : AluOp) (a y : Word) (cin : Bool) : (c.fold op a y cin).j = c.j := rfl
@[simp] theorem fold_k (c : StackCpu) (op : AluOp) (a y : Word) (cin : Bool) : (c.fold op a y cin).k = c.k := rfl
@[simp] theorem fold_md (c : StackCpu) (op : AluOp) (a y : Word) (cin : Bool) : (c.fold op a y cin).md = c.md := rfl
@[simp] theorem fold_sr (c : StackCpu) (op : AluOp) (a y : Word) (cin : Bool) : (c.fold op a y cin).sr = c.sr := rfl
@[simp] theorem fold_bdata (c : StackCpu) (op : AluOp) (a y : Word) (cin : Bool) : (c.fold op a y cin).bdata = c.bdata := rfl
@[simp] theorem fold_bdir (c : StackCpu) (op : AluOp) (a y : Word) (cin : Bool) : (c.fold op a y cin).bdir = c.bdir := rfl
@[simp] theorem fold_bmask (c : StackCpu) (op : AluOp) (a y : Word) (cin : Bool) : (c.fold op a y cin).bmask = c.bmask := rfl
@[simp] theorem fold_btri (c : StackCpu) (op : AluOp) (a y : Word) (cin : Bool) : (c.fold op a y cin).btri = c.btri := rfl
@[simp] theorem fold_xdata (c : StackCpu) (op : AluOp) (a y : Word) (cin : Bool) : (c.fold op a y cin).xdata = c.xdata := rfl
@[simp] theorem fold_xdir (c : StackCpu) (op : AluOp) (a y : Word) (cin : Bool) : (c.fold op a y cin).xdir = c.xdir := rfl
@[simp] theorem fold_xmask (c : StackCpu) (op : AluOp) (a y : Word) (cin : Bool) : (c.fold op a y cin).xmask = c.xmask := rfl
@[simp] theorem fold_xtri (c : StackCpu) (op : AluOp) (a y : Word) (cin : Bool) : (c.fold op a y cin).xtri = c.xtri := rfl
@[simp] theorem fold_carry (c : StackCpu) (op : AluOp) (a y : Word) (cin : Bool) : (c.fold op a y cin).carry = if writesCarry op then (aluFn op a y cin).cout else c.carry := rfl
@[simp] theorem fold_timesmode (c : StackCpu) (op : AluOp) (a y : Word) (cin : Bool) : (c.fold op a y cin).timesmode = c.timesmode := rfl
@[simp] theorem fold_intreq (c : StackCpu) (op : AluOp) (a y : Word) (cin : Bool) : (c.fold op a y cin).intreq = c.intreq := rfl
@[simp] theorem fold_prog (c : StackCpu) (op : AluOp) (a y : Word) (cin : Bool) : (c.fold op a y cin).prog = c.prog := rfl
@[simp] theorem fold_ds (c : StackCpu) (op : AluOp) (a y : Word) (cin : Bool) : (c.fold op a y cin).ds = c.ds := rfl
@[simp] theorem fold_rs (c : StackCpu) (op : AluOp) (a y : Word) (cin : Bool) : (c.fold op a y cin).rs = c.rs := rfl
@[simp] theorem fold_io (c : StackCpu) (op : AluOp) (a y : Word) (cin : Bool) : (c.fold op a y cin).io = c.io := rfl

/-! ## RegisterCPU -/

@[simp] theorem putByte_r (c : RegCpu) (a : DWord) (v : Byte) : (c.putByte a v).r = c.r := rfl
@[simp] theorem putByte_pc (c : RegCpu) (a : DWord) (v : Byte) : (c.putByte a v).pc = c.pc := rfl
@[simp] theorem putByte_sb (c : RegCpu) (a : DWord) (v : Byte) : (c.putByte a v).sb = c.sb := rfl
@[simp] theorem putByte_fp (c : RegCpu) (a : DWord) (v : Byte) : (c.putByte a v).fp = c.fp := rfl
@[simp] theorem putByte_sp0 (c : RegCpu) (a : DWord) (v : Byte) : (c.putByte a v).sp0 = c.sp0 := rfl
@[simp] theorem putByte_sp1 (c : RegCpu) (a : DWord) (v : Byte) : (c.putByte a v).sp1 = c.sp1 := rfl
@[simp] theorem putByte_intbase (c : RegCpu) (a : DWord) (v : Byte) : (c.putByte a v).intbase = c.intbase := rfl
@[simp] theorem putByte_mod (c : RegCpu) (a : DWord) (v : Byte) : (c.putByte a v).mod = c.mod := rfl
@[simp] theorem putByte_psr (c : RegCpu) (a : DWord) (v : Byte) : (c.putByte a v).psr = c.psr := rfl
@[simp] theorem putByte_cfg (c : RegCpu) (a : DWord) (v : Byte) : (c.putByte a v).cfg = c.cfg := rfl
@[simp] theorem putByte_mem (c : RegCpu) (a : DWord) (v : Byte) : (c.putByte a v).mem = cellWrite c.mem a.toNat v := rfl

@[simp] theorem setReg_r (c : RegCpu) (k : Fin 8) (n : Size) (v : DWord) : (c.setReg k n v).r = c.r.set k (mergeLow n c.r[k] v) := rfl
@[simp] theorem setReg_pc (c : RegCpu) (k : Fin 8) (n : Size) (v : DWord) : (c.setReg k n v).pc = c.pc := rfl
@[simp] theorem setReg_sb (c : RegCpu) (k : Fin 8) (n : Size) (v : DWord) : (c.setReg k n v).sb = c.sb := rfl
@[simp] theorem setReg_fp (c : RegCpu) (k : Fin 8) (n : Size) (v : DWord) : (c.setReg k n v).fp = c.fp := rfl
@[simp] theorem setReg_sp0 (c : RegCpu) (k : Fin 8) (n : Size) (v : DWord) : (c.setReg k n v).sp0 = c.sp0 := rfl
@[simp] theorem setReg_sp1 (c : RegCpu) (k : Fin 8) (n : Size) (v : DWord) : (c.setReg k n v).sp1 = c.sp1 := rfl
@[simp] theorem setReg_intbase (c : RegCpu) (k : Fin 8) (n : Size) (v : DWord) : (c.setReg k n v).intbase = c.intbase := rfl
@[simp] theorem setReg_mod (c : RegCpu) (k : Fin 8) (n : Size) (v : DWord) : (c.setReg k n v).mod = c.mod := rfl
@[simp] theorem setReg_psr (c : RegCpu) (k : Fin 8) (n : Size) (v : DWord) : (c.setReg k n v).psr = c.psr := rfl
@[simp] theorem setReg_cfg (c : RegCpu) (k : Fin 8) (n : Size) (v : DWord) : (c.setReg k n v).cfg = c.cfg := rfl
@[simp] theorem setReg_mem (c : RegCpu) (k : Fin 8) (n : Size) (v : DWord) : (c.setReg k n v).mem = c.mem := rfl

@[simp] theorem withPsr_r (c : RegCpu) (p : Word) : (c.withPsr p).r = c.r := rfl
@[simp] theorem withPsr_pc (c : RegCpu) (p : Word) : (c.withPsr p).pc = c.pc := rfl
@[simp] theorem withPsr_sb (c : RegCpu) (p : Word) : (c.withPsr p).sb = c.sb := rfl
@[simp] theorem withPsr_fp (c : RegCpu) (p : Word) : (c.withPsr p).fp = c.fp := rfl
@[simp] theorem withPsr_sp0 (c : RegCpu) (p : Word) : (c.withPsr p).sp0 = c.sp0 := rfl
@[simp] theorem withPsr_sp1 (c : RegCpu) (p : Word) : (c.withPsr p).sp1 = c.sp1 := rfl
@[simp] theorem withPsr_intbase (c : RegCpu) (p : Word) : (c.withPsr p).intbase = c.intbase := rfl
@[simp] theorem withPsr_mod (c : RegCpu) (p : Word) : (c.withPsr p).mod = c.mod := rfl
@[simp] theorem withPsr_psr (c : RegCpu) (p : Word) : (c.withPsr p).psr = p := rfl
@[simp] theorem withPsr_cfg (c : RegCpu) (p : Word) : (c.withPsr p).cfg = c.cfg := rfl
@[simp] theorem withPsr_mem (c : RegCpu) (p : Word) : (c.withPsr p).mem = c.mem := rfl

@[simp] theorem advance_r (c : RegCpu) (len : Nat) : (c.advance len).r = c.r := rfl
@[simp] theorem advance_pc (c : RegCpu) (len : Nat) : (c.advance len).pc = c.pc + BitVec.ofNat 32 len := rfl
@[simp] theorem advance_sb (c : RegCpu) (len : Nat) : (c.advance len).sb = c.sb := rfl
@[simp] theorem advance_fp (c : RegCpu) (len : Nat) : (c.advance len).fp = c.fp := rfl
@[simp] theorem advance_sp0 (c : RegCpu) (len : Nat) : (c.advance len).sp0 = c.sp0 := rfl
@[simp] theorem advance_sp1 (c : RegCpu) (len : Nat) : (c.advance len).sp1 = c.sp1 := rfl
@[simp] theorem advance_intbase (c : RegCpu) (len : Nat) : (c.advance len).intbase = c.intbase := rfl
@[simp] theorem advance_mod (c : RegCpu) (len : Nat) : (c.advance len).mod = c.mod := rfl
@[simp] theorem advance_psr (c : RegCpu) (len : Nat) : (c.advance len).psr = c.psr := rfl
@[simp] theorem advance_cfg (c : RegCpu) (len : Nat) : (c.advance len).cfg = c.cfg := rfl
@[simp] theorem advance_mem (c : RegCpu) (len : Nat) : (c.advance len).mem = c.mem := rfl

@[simp] theorem goto_r (c : RegCpu) (a : DWord) : (c.goto a).r = c.r := rfl
@[simp] theorem goto_pc (c : RegCpu) (a : DWord) : (c.goto a).pc = a := rfl
@[simp] theorem goto_sb (c : RegCpu) (a : DWord) : (c.goto a).sb = c.sb := rfl
@[simp] theorem goto_fp (c : RegCpu) (a : DWord) : (c.goto a).fp = c.fp := rfl
@[simp] theorem goto_sp0 (c : RegCpu) (a : DWord) : (c.goto a).sp0 = c.sp0 := rfl
@[simp] theorem goto_sp1 (c : RegCpu) (a : DWord) : (c.goto a).sp1 = c.sp1 := rfl
@[simp] theorem goto_intbase (c : RegCpu) (a : DWord) : (c.goto a).intbase = c.intbase := rfl
@[simp] theorem goto_mod (c : RegCpu) (a : DWord) : (c.goto a).mod = c.mod := rfl
@[simp] theorem goto_psr (c : RegCpu) (a : DWord) : (c.goto a).psr = c.psr := rfl
@[simp] theorem goto_cfg (c : RegCpu) (a : DWord) : (c.goto a).cfg = c.cfg := rfl
@[simp] theorem goto_mem (c : RegCpu) (a : DWord) : (c.goto a).mem = c.mem := rfl

@[simp] theorem loadModule_r (c : RegCpu) (m : Word) : (c.loadModule m).r = c.r := rfl
@[simp] theorem loadModule_pc (c : RegCpu) (m : Word) : (c.loadModule m).pc = c.pc := rfl
@[simp] theorem loadModule_sb (c : RegCpu) (m : Word) : (c.loadModule m).sb = c.read32 (m.setWidth 32) := rfl
@[simp] theorem loadModule_fp (c : RegCpu) (m : Word) : (c.loadModule m).fp = c.fp := rfl
@[simp] theorem loadModule_sp0 (c : RegCpu) (m : Word) : (c.loadModule m).sp0 = c.sp0 := rfl
@[simp] theorem loadModule_sp1 (c : RegCpu) (m : Word) : (c.loadModule m).sp1 = c.sp1 := rfl
@[simp] theorem loadModule_intbase (c : RegCpu) (m : Word) : (c.loadModule m).intbase = c.intbase := rfl
@[simp] theorem loadModule_mod (c : RegCpu) (m : Word) : (c.loadModule m).mod = m := rfl
@[simp] theorem loadModule_psr (c : RegCpu) (m : Word) : (c.loadModule m).psr = c.psr := rfl
@[simp] theorem loadModule_cfg (c : RegCpu) (m : Word) : (c.loadModule m).cfg = c.cfg := rfl
@[simp] theorem loadModule_mem (c : RegCpu) (m : Word) : (c.loadModule m).mem = c.mem := rfl

@[simp] theorem enterDescriptor_r (c : RegCpu) (d : DWord) : (c.enterDescriptor d).r = c.r := rfl
@[simp] theorem enterDescriptor_pc (c : RegCpu) (d : DWord) : (c.enterDescriptor d).pc = c.read32 ((d.setWidth 16).setWidth 32 + 8) + (d.extractLsb' 16 16).setWidth 32 := rfl
@[simp] theorem enterDescriptor_sb (c : RegCpu) (d : DWord) : (c.enterDescriptor d).sb = c.read32 ((d.setWidth 16).setWidth 32) := rfl
@[simp] theorem enterDescriptor_fp (c : RegCpu) (d : DWord) : (c.enterDescriptor d).fp = c.fp := rfl
@[simp] theorem enterDescriptor_sp0 (c : RegCpu) (d : DWord) : (c.enterDescriptor d).sp0 = c.sp0 := rfl
@[simp] theorem enterDescriptor_sp1 (c : RegCpu) (d : DWord) : (c.enterDescriptor d).sp1 = c.sp1 := rfl
@[simp] theorem enterDescriptor_intbase (c : RegCpu) (d : DWord) : (c.enterDescriptor d).intbase = c.intbase := rfl
@[simp] theorem enterDescriptor_mod (c : RegCpu) (d : DWord) : (c.enterDescriptor d).mod = d.setWidth 16 := rfl
@[simp] theorem enterDescriptor_psr (c : RegCpu) (d : DWord) : (c.enterDescriptor d).psr = c.psr := rfl
@[simp] theorem enterDescriptor_cfg (c : RegCpu) (d : DWord) : (c.enterDescriptor d).cfg = c.cfg := rfl
@[simp] theorem enterDescriptor_mem (c : RegCpu) (d : DWord) : (c.enterDescriptor d).mem = c.mem := rfl

/-! ### `SP`, by the stack select -/

@[simp] theorem setSp_r (c : RegCpu) (v : DWord) : (c.setSp v).r = c.r := by unfold RegCpu.setSp; split <;> rfl
@[simp] theorem setSp_pc (c : RegCpu) (v : DWord) : (c.setSp v).pc = c.pc := by unfold RegCpu.setSp; split <;> rfl
@[simp] theorem setSp_sb (c : RegCpu) (v : DWord) : (c.setSp v).sb = c.sb := by unfold RegCpu.setSp; split <;> rfl
@[simp] theorem setSp_fp (c : RegCpu) (v : DWord) : (c.setSp v).fp = c.fp := by unfold RegCpu.setSp; split <;> rfl
theorem setSp_sp0 (c : RegCpu) (v : DWord) :
    (c.setSp v).sp0 = if psrBit c.psr bitS then c.sp0 else v := by
  unfold RegCpu.setSp; split <;> rfl
theorem setSp_sp1 (c : RegCpu) (v : DWord) :
    (c.setSp v).sp1 = if psrBit c.psr bitS then v else c.sp1 := by
  unfold RegCpu.setSp; split <;> rfl
@[simp] theorem setSp_intbase (c : RegCpu) (v : DWord) : (c.setSp v).intbase = c.intbase := by unfold RegCpu.setSp; split <;> rfl
@[simp] theorem setSp_mod (c : RegCpu) (v : DWord) : (c.setSp v).mod = c.mod := by unfold RegCpu.setSp; split <;> rfl
@[simp] theorem setSp_psr (c : RegCpu) (v : DWord) : (c.setSp v).psr = c.psr := by unfold RegCpu.setSp; split <;> rfl
@[simp] theorem setSp_cfg (c : RegCpu) (v : DWord) : (c.setSp v).cfg = c.cfg := by unfold RegCpu.setSp; split <;> rfl
@[simp] theorem setSp_mem (c : RegCpu) (v : DWord) : (c.setSp v).mem = c.mem := by unfold RegCpu.setSp; split <;> rfl
@[simp] theorem setSp_sp (c : RegCpu) (v : DWord) : (c.setSp v).sp = v := by
  unfold RegCpu.sp RegCpu.setSp; split <;> simp_all
@[simp] theorem setSp_same (c : RegCpu) : c.setSp c.sp = c := by unfold RegCpu.sp RegCpu.setSp; split <;> rfl
@[simp] theorem setSp_setSp (c : RegCpu) (v w : DWord) : (c.setSp v).setSp w = c.setSp w := by
  unfold RegCpu.setSp; split <;> simp_all

/-! ### Stores and stack operations: what is not memory or `SP` -/

@[simp] theorem write16_r (c : RegCpu) (a : DWord) (v : Word) : (c.write16 a v).r = c.r := by simp [RegCpu.write16]
@[simp] theorem write16_pc (c : RegCpu) (a : DWord) (v : Word) : (c.write16 a v).pc = c.pc := by simp [RegCpu.write16]
@[simp] theorem write16_sb (c : RegCpu) (a : DWord) (v : Word) : (c.write16 a v).sb = c.sb := by simp [RegCpu.write16]
@[simp] theorem write16_fp (c : RegCpu) (a : DWord) (v : Word) : (c.write16 a v).fp = c.fp := by simp [RegCpu.write16]
@[simp] theorem write16_sp0 (c : RegCpu) (a : DWord) (v : Word) : (c.write16 a v).sp0 = c.sp0 := by simp [RegCpu.write16]
@[simp] theorem write16_sp1 (c : RegCpu) (a : DWord) (v : Word) : (c.write16 a v).sp1 = c.sp1 := by simp [RegCpu.write16]
@[simp] theorem write16_intbase (c : RegCpu) (a : DWord) (v : Word) : (c.write16 a v).intbase = c.intbase := by simp [RegCpu.write16]
@[simp] theorem write16_mod (c : RegCpu) (a : DWord) (v : Word) : (c.write16 a v).mod = c.mod := by simp [RegCpu.write16]
@[simp] theorem write16_psr (c : RegCpu) (a : DWord) (v : Word) : (c.write16 a v).psr = c.psr := by simp [RegCpu.write16]
@[simp] theorem write16_cfg (c : RegCpu) (a : DWord) (v : Word) : (c.write16 a v).cfg = c.cfg := by simp [RegCpu.write16]
@[simp] theorem write32_r (c : RegCpu) (a v : DWord) : (c.write32 a v).r = c.r := by simp [RegCpu.write32]
@[simp] theorem write32_pc (c : RegCpu) (a v : DWord) : (c.write32 a v).pc = c.pc := by simp [RegCpu.write32]
@[simp] theorem write32_sb (c : RegCpu) (a v : DWord) : (c.write32 a v).sb = c.sb := by simp [RegCpu.write32]
@[simp] theorem write32_fp (c : RegCpu) (a v : DWord) : (c.write32 a v).fp = c.fp := by simp [RegCpu.write32]
@[simp] theorem write32_sp0 (c : RegCpu) (a v : DWord) : (c.write32 a v).sp0 = c.sp0 := by simp [RegCpu.write32]
@[simp] theorem write32_sp1 (c : RegCpu) (a v : DWord) : (c.write32 a v).sp1 = c.sp1 := by simp [RegCpu.write32]
@[simp] theorem write32_intbase (c : RegCpu) (a v : DWord) : (c.write32 a v).intbase = c.intbase := by simp [RegCpu.write32]
@[simp] theorem write32_mod (c : RegCpu) (a v : DWord) : (c.write32 a v).mod = c.mod := by simp [RegCpu.write32]
@[simp] theorem write32_psr (c : RegCpu) (a v : DWord) : (c.write32 a v).psr = c.psr := by simp [RegCpu.write32]
@[simp] theorem write32_cfg (c : RegCpu) (a v : DWord) : (c.write32 a v).cfg = c.cfg := by simp [RegCpu.write32]
@[simp] theorem memWrite_r (c : RegCpu) (a : DWord) (n : Size) (v : DWord) : (c.memWrite a n v).r = c.r := by
  cases n <;> simp [RegCpu.memWrite]
@[simp] theorem memWrite_pc (c : RegCpu) (a : DWord) (n : Size) (v : DWord) : (c.memWrite a n v).pc = c.pc := by
  cases n <;> simp [RegCpu.memWrite]
@[simp] theorem memWrite_sb (c : RegCpu) (a : DWord) (n : Size) (v : DWord) : (c.memWrite a n v).sb = c.sb := by
  cases n <;> simp [RegCpu.memWrite]
@[simp] theorem memWrite_fp (c : RegCpu) (a : DWord) (n : Size) (v : DWord) : (c.memWrite a n v).fp = c.fp := by
  cases n <;> simp [RegCpu.memWrite]
@[simp] theorem memWrite_sp0 (c : RegCpu) (a : DWord) (n : Size) (v : DWord) : (c.memWrite a n v).sp0 = c.sp0 := by
  cases n <;> simp [RegCpu.memWrite]
@[simp] theorem memWrite_sp1 (c : RegCpu) (a : DWord) (n : Size) (v : DWord) : (c.memWrite a n v).sp1 = c.sp1 := by
  cases n <;> simp [RegCpu.memWrite]
@[simp] theorem memWrite_intbase (c : RegCpu) (a : DWord) (n : Size) (v : DWord) : (c.memWrite a n v).intbase = c.intbase := by
  cases n <;> simp [RegCpu.memWrite]
@[simp] theorem memWrite_mod (c : RegCpu) (a : DWord) (n : Size) (v : DWord) : (c.memWrite a n v).mod = c.mod := by
  cases n <;> simp [RegCpu.memWrite]
@[simp] theorem memWrite_psr (c : RegCpu) (a : DWord) (n : Size) (v : DWord) : (c.memWrite a n v).psr = c.psr := by
  cases n <;> simp [RegCpu.memWrite]
@[simp] theorem memWrite_cfg (c : RegCpu) (a : DWord) (n : Size) (v : DWord) : (c.memWrite a n v).cfg = c.cfg := by
  cases n <;> simp [RegCpu.memWrite]
@[simp] theorem pushN_r (c : RegCpu) (n : Size) (v : DWord) : (c.pushN n v).r = c.r := by simp [RegCpu.pushN]
@[simp] theorem push32_r (c : RegCpu) (v : DWord) : (c.push32 v).r = c.r := by simp [RegCpu.push32]
@[simp] theorem pushN_pc (c : RegCpu) (n : Size) (v : DWord) : (c.pushN n v).pc = c.pc := by simp [RegCpu.pushN]
@[simp] theorem push32_pc (c : RegCpu) (v : DWord) : (c.push32 v).pc = c.pc := by simp [RegCpu.push32]
@[simp] theorem pushN_sb (c : RegCpu) (n : Size) (v : DWord) : (c.pushN n v).sb = c.sb := by simp [RegCpu.pushN]
@[simp] theorem push32_sb (c : RegCpu) (v : DWord) : (c.push32 v).sb = c.sb := by simp [RegCpu.push32]
@[simp] theorem pushN_fp (c : RegCpu) (n : Size) (v : DWord) : (c.pushN n v).fp = c.fp := by simp [RegCpu.pushN]
@[simp] theorem push32_fp (c : RegCpu) (v : DWord) : (c.push32 v).fp = c.fp := by simp [RegCpu.push32]
@[simp] theorem pushN_intbase (c : RegCpu) (n : Size) (v : DWord) : (c.pushN n v).intbase = c.intbase := by simp [RegCpu.pushN]
@[simp] theorem push32_intbase (c : RegCpu) (v : DWord) : (c.push32 v).intbase = c.intbase := by simp [RegCpu.push32]
@[simp] theorem pushN_mod (c : RegCpu) (n : Size) (v : DWord) : (c.pushN n v).mod = c.mod := by simp [RegCpu.pushN]
@[simp] theorem push32_mod (c : RegCpu) (v : DWord) : (c.push32 v).mod = c.mod := by simp [RegCpu.push32]
@[simp] theorem pushN_psr (c : RegCpu) (n : Size) (v : DWord) : (c.pushN n v).psr = c.psr := by simp [RegCpu.pushN]
@[simp] theorem push32_psr (c : RegCpu) (v : DWord) : (c.push32 v).psr = c.psr := by simp [RegCpu.push32]
@[simp] theorem pushN_cfg (c : RegCpu) (n : Size) (v : DWord) : (c.pushN n v).cfg = c.cfg := by simp [RegCpu.pushN]
@[simp] theorem push32_cfg (c : RegCpu) (v : DWord) : (c.push32 v).cfg = c.cfg := by simp [RegCpu.push32]
@[simp] theorem dropN_r (c : RegCpu) (n : Size) : (c.dropN n).r = c.r := by simp [RegCpu.dropN]
@[simp] theorem drop32_r (c : RegCpu) : c.drop32.r = c.r := by simp [RegCpu.drop32]
@[simp] theorem dropN_pc (c : RegCpu) (n : Size) : (c.dropN n).pc = c.pc := by simp [RegCpu.dropN]
@[simp] theorem drop32_pc (c : RegCpu) : c.drop32.pc = c.pc := by simp [RegCpu.drop32]
@[simp] theorem dropN_sb (c : RegCpu) (n : Size) : (c.dropN n).sb = c.sb := by simp [RegCpu.dropN]
@[simp] theorem drop32_sb (c : RegCpu) : c.drop32.sb = c.sb := by simp [RegCpu.drop32]
@[simp] theorem dropN_fp (c : RegCpu) (n : Size) : (c.dropN n).fp = c.fp := by simp [RegCpu.dropN]
@[simp] theorem drop32_fp (c : RegCpu) : c.drop32.fp = c.fp := by simp [RegCpu.drop32]
@[simp] theorem dropN_intbase (c : RegCpu) (n : Size) : (c.dropN n).intbase = c.intbase := by simp [RegCpu.dropN]
@[simp] theorem drop32_intbase (c : RegCpu) : c.drop32.intbase = c.intbase := by simp [RegCpu.drop32]
@[simp] theorem dropN_mod (c : RegCpu) (n : Size) : (c.dropN n).mod = c.mod := by simp [RegCpu.dropN]
@[simp] theorem drop32_mod (c : RegCpu) : c.drop32.mod = c.mod := by simp [RegCpu.drop32]
@[simp] theorem dropN_psr (c : RegCpu) (n : Size) : (c.dropN n).psr = c.psr := by simp [RegCpu.dropN]
@[simp] theorem drop32_psr (c : RegCpu) : c.drop32.psr = c.psr := by simp [RegCpu.drop32]
@[simp] theorem dropN_cfg (c : RegCpu) (n : Size) : (c.dropN n).cfg = c.cfg := by simp [RegCpu.dropN]
@[simp] theorem drop32_cfg (c : RegCpu) : c.drop32.cfg = c.cfg := by simp [RegCpu.drop32]
@[simp] theorem dropN_mem (c : RegCpu) (n : Size) : (c.dropN n).mem = c.mem := by simp [RegCpu.dropN]
@[simp] theorem drop32_mem (c : RegCpu) : c.drop32.mem = c.mem := by simp [RegCpu.drop32]

/-- `SP` looks at `psr`, `sp[0]` and `sp[1]` only. -/
theorem sp_congr {c d : RegCpu} (hp : c.psr = d.psr) (h0 : c.sp0 = d.sp0) (h1 : c.sp1 = d.sp1) : c.sp = d.sp := by
  unfold RegCpu.sp; rw [hp, h0, h1]

@[simp] theorem memWrite_sp (c : RegCpu) (a : DWord) (n : Size) (v : DWord) : (c.memWrite a n v).sp = c.sp :=
  sp_congr (by simp) (by simp) (by simp)
@[simp] theorem setReg_sp (c : RegCpu) (k : Fin 8) (n : Size) (v : DWord) : (c.setReg k n v).sp = c.sp := rfl
@[simp] theorem putByte_sp (c : RegCpu) (a : DWord) (v : Byte) : (c.putByte a v).sp = c.sp := rfl
@[simp] theorem advance_sp (c : RegCpu) (k : Nat) : (c.advance k).sp = c.sp := rfl
@[simp] theorem goto_sp (c : RegCpu) (a : DWord) : (c.goto a).sp = c.sp := rfl
@[simp] theorem loadModule_sp (c : RegCpu) (m : Word) : (c.loadModule m).sp = c.sp := rfl
@[simp] theorem pushN_sp (c : RegCpu) (n : Size) (v : DWord) : (c.pushN n v).sp = c.sp - BitVec.ofNat 32 n.bytes := by
  simp [RegCpu.pushN]
@[simp] theorem push32_sp (c : RegCpu) (v : DWord) : (c.push32 v).sp = c.sp - 4#32 := pushN_sp c .d v
@[simp] theorem dropN_sp (c : RegCpu) (n : Size) : (c.dropN n).sp = c.sp + BitVec.ofNat 32 n.bytes := by
  simp [RegCpu.dropN]
@[simp] theorem drop32_sp (c : RegCpu) : c.drop32.sp = c.sp + 4#32 := dropN_sp c .d

/-! ### Reading one register -/

theorem reg_setReg (c : RegCpu) (k j : Fin 8) (n : Size) (v : DWord) :
    (c.setReg k n v).reg j = if j = k then mergeLow n (c.reg k) v else c.reg j := by
  simp only [RegCpu.reg, RegCpu.setReg, Fin.getElem_fin, Vector.getElem_set]
  by_cases h : j = k
  · simp [h]
  · have : ¬ k.val = j.val := fun e => h (Fin.ext e.symm)
    simp [h, this]

@[simp] theorem reg_setReg_same (c : RegCpu) (k : Fin 8) (n : Size) (v : DWord) :
    (c.setReg k n v).reg k = mergeLow n (c.reg k) v := by simp [reg_setReg]

/-- A register file read depends on the file only. -/
theorem reg_congr {c d : RegCpu} (h : c.r = d.r) (k : Fin 8) : c.reg k = d.reg k := by unfold RegCpu.reg; rw [h]

/-- A memory read depends on the memory only. -/
theorem byteAt_congr {c d : RegCpu} (h : c.mem = d.mem) (a : DWord) : c.byteAt a = d.byteAt a := by
  unfold RegCpu.byteAt; rw [h]

end Sys2Proof.Laws
end

