-- ==== Sys2Proof/Laws/Ops.lean ====
section
/-!
SUPPORT. For each shared operation, once, what it can do: the canonical form kept, the stacks, the trap entry, the end of an
instruction. Proofs cite these and do not unfold the operations.
-/
namespace Sys2Proof.Laws
open Sys2Proof Sys2Proof.Machine

/-! ## The canonical form, StackCPU -/

/-- The canonical form of the three StackCPU memories. -/
abbrev StackWf (c : StackCpu) : Prop := CellWf 65536 c.prog ∧ CellWf 256 c.ds ∧ CellWf 256 c.rs

/-- The canonical form of RegisterCPU memory. -/
abbrev RegWf (c : RegCpu) : Prop := CellWf 4294967296 c.mem

theorem stackWf_progWrite {c : StackCpu} (h : StackWf c) (a v : Word) : StackWf (c.progWrite a v) :=
  ⟨cellWrite_wf _ _ _ h.1 a.isLt, h.2.1, h.2.2⟩

theorem stackWf_dPushN {c : StackCpu} (h : StackWf c) : StackWf c.dPushN :=
  ⟨h.1, cellWrite_wf _ _ _ h.2.1 c.k.isLt, h.2.2⟩

theorem stackWf_dPopN {c : StackCpu} (h : StackWf c) : StackWf c.dPopN := h

theorem stackWf_rPush {c : StackCpu} (h : StackWf c) (v : Word) : StackWf (c.rPush v) :=
  ⟨h.1, h.2.1, cellWrite_wf _ _ _ h.2.2 c.j.isLt⟩

theorem stackWf_rPop {c : StackCpu} (h : StackWf c) : StackWf c.rPop := h

theorem stackWf_pushTN {c : StackCpu} (h : StackWf c) : StackWf c.pushTN := stackWf_dPushN h

theorem stackWf_callTo {c : StackCpu} (h : StackWf c) (v : Word) : StackWf (c.callTo v) :=
  stackWf_rPush h c.savedWord

theorem stackWf_fold {c : StackCpu} (h : StackWf c) (op : AluOp) (a y : Word) (cin : Bool) :
    StackWf (c.fold op a y cin) := h

theorem stackWf_retPost {c : StackCpu} (h : StackWf c) (ret : Bool) : StackWf (c.retPost ret) := by
  unfold StackCpu.retPost; split <;> exact h

theorem stackWf_shift {c : StackCpu} (h : StackWf c) (sh32 : Bool) (sh : ShiftCode) : StackWf (c.shift sh32 sh) := by
  unfold StackCpu.shift; split <;> exact h

theorem stackWf_stackAdjust {c : StackCpu} (h : StackWf c) (tn sa : Bool) : StackWf (c.stackAdjust tn sa) := by
  unfold StackCpu.stackAdjust
  split
  · exact stackWf_pushTN h
  · split
    · exact stackWf_dPopN h
    · exact h

theorem stackWf_aluSteps {c : StackCpu} (h : StackWf c) (op : AluOp) (o : AluOpts) : StackWf (c.aluSteps op o) :=
  stackWf_retPost (stackWf_shift (c := (c.stackAdjust o.tn o.sa).evaluate _ _ _ _) (stackWf_stackAdjust h _ _) _ _) _

theorem bOut_frame (c : StackCpu) : c.bOut = { c with io := c.bOut.io } := by unfold StackCpu.bOut; split <;> rfl

theorem xOut_frame (c : StackCpu) : c.xOut = { c with io := c.xOut.io } := by unfold StackCpu.xOut; split <;> rfl

theorem stackWf_bOut {c : StackCpu} (h : StackWf c) : StackWf c.bOut := by rw [bOut_frame]; exact h

theorem stackWf_xOut {c : StackCpu} (h : StackWf c) : StackWf c.xOut := by rw [xOut_frame]; exact h

theorem stackWf_intWrite {c : StackCpu} (h : StackWf c) (slot : Fin 16) (v : Word) : StackWf (c.intWrite slot v) := by
  unfold StackCpu.intWrite
  split
  case h_9 => exact stackWf_bOut h
  case h_13 => exact stackWf_xOut h
  all_goals exact h

theorem stackWf_timesBegin {c : StackCpu} (h : StackWf c) : StackWf c.timesBegin := stackWf_rPush h c.i

theorem stackWf_fetchWith {c : StackCpu} (h : StackWf c) (op : AluOp) (tn ret : Bool) (v : Word) :
    StackWf (c.fetchWith op tn ret v) := by
  unfold StackCpu.fetchWith
  apply stackWf_retPost
  apply stackWf_fold
  split
  · exact stackWf_pushTN h
  · exact h

theorem stackWf_storeWith {c : StackCpu} (h : StackWf c) (op : AluOp) (tn ret : Bool) (y : Word) :
    StackWf (c.storeWith op tn ret y) := by
  unfold StackCpu.storeWith
  apply stackWf_retPost
  apply stackWf_fold
  split
  · exact stackWf_dPopN h
  · exact h

theorem stackWf_fetchStep {c : StackCpu} (h : StackWf c) (op : AluOp) (ret : Bool) (lit : BitVec 5) :
    StackWf (c.fetchStep op ret lit) :=
  stackWf_retPost (stackWf_fold (c := { c.dPushN with n := c.progRead c.t }) (stackWf_dPushN h) _ _ _ _) _

theorem stackWf_fetchMem {c : StackCpu} (h : StackWf c) (op : AluOp) (tn ret : Bool) :
    StackWf (c.fetchMem op tn ret) := by
  unfold StackCpu.fetchMem
  apply stackWf_retPost
  split <;> exact h

theorem stackWf_storeStep {c : StackCpu} (h : StackWf c) (op : AluOp) (ret : Bool) (lit : BitVec 5) :
    StackWf (c.storeStep op ret lit) :=
  stackWf_retPost (stackWf_fold (stackWf_dPopN (stackWf_progWrite h _ _)) _ _ _ _) _

theorem stackWf_storeMem {c : StackCpu} (h : StackWf c) (op : AluOp) (tn ret : Bool) :
    StackWf (c.storeMem op tn ret) := by
  unfold StackCpu.storeMem
  apply stackWf_retPost
  split
  · exact stackWf_fold (stackWf_dPopN (stackWf_progWrite h _ _)) _ _ _ _
  · exact stackWf_progWrite h _ _

theorem stackWf_afterFetch {c : StackCpu} (h : StackWf c) (m : BitVec 5) : StackWf (c.afterFetch m) := by
  have h1 : StackWf (c.interruptPhase m) := by
    unfold StackCpu.interruptPhase
    split
    · exact stackWf_callTo h Config.stackIntVector
    · exact h
  have h2 : StackWf (c.beforeFetch m) := by
    unfold StackCpu.beforeFetch StackCpu.timesPhase
    simp only
    split
    · split <;> exact h1
    · exact h1
  unfold StackCpu.afterFetch StackCpu.advance
  split <;> exact h2

/-! ## The canonical form, RegisterCPU -/

theorem regWf_memWrite {c : RegCpu} (h : RegWf c) (a : DWord) (n : Size) (v : DWord) : RegWf (c.memWrite a n v) :=
  memWrite_wf _ _ _ _ h

theorem regWf_setSp {c : RegCpu} (h : RegWf c) (v : DWord) : RegWf (c.setSp v) := by
  unfold RegWf; rw [setSp_mem]; exact h

theorem regWf_pushN {c : RegCpu} (h : RegWf c) (n : Size) (v : DWord) : RegWf (c.pushN n v) :=
  regWf_memWrite (regWf_setSp h _) _ _ _

theorem regWf_push32 {c : RegCpu} (h : RegWf c) (v : DWord) : RegWf (c.push32 v) := regWf_pushN h _ _

theorem regWf_dropN {c : RegCpu} (h : RegWf c) (n : Size) : RegWf (c.dropN n) := regWf_setSp h _

theorem regWf_drop32 {c : RegCpu} (h : RegWf c) : RegWf c.drop32 := regWf_dropN h _

theorem regWf_saveRegs {c : RegCpu} (h : RegWf c) (mask : Byte) : RegWf (c.saveRegs mask) := by
  unfold RegCpu.saveRegs
  generalize List.finRange 8 = l
  induction l generalizing c with
  | nil => exact h
  | cons k l ih =>
    rw [List.foldl_cons]
    apply ih
    split
    · exact regWf_push32 h _
    · exact h

theorem regWf_restoreRegs {c : RegCpu} (h : RegWf c) (mask : Byte) : RegWf (c.restoreRegs mask) := by
  unfold RegCpu.restoreRegs
  generalize List.finRange 8 = l
  induction l generalizing c with
  | nil => exact h
  | cons k l ih =>
    rw [List.foldl_cons]
    apply ih
    split
    · exact regWf_drop32 h
    · exact h

theorem regWf_callDescriptor {c : RegCpu} (h : RegWf c) (desc ret : DWord) : RegWf (c.callDescriptor desc ret) := by
  unfold RegWf RegCpu.callDescriptor
  rw [enterDescriptor_mem]
  exact regWf_push32 (regWf_push32 h _) _

theorem regWf_trapFrame {c : RegCpu} (h : RegWf c) : RegWf c.trapFrame := by
  have h1 : RegWf (c.withPsr (c.psr &&& Config.trapPsrKeep)) := h
  exact regWf_push32 (regWf_push32 h1 _) _

theorem regWf_trapEntry {c : RegCpu} (h : RegWf c) (t : Trap) : RegWf (c.trapEntry t) := by
  unfold RegWf RegCpu.trapEntry
  rw [enterDescriptor_mem]
  exact regWf_trapFrame h

theorem trapReturn_mem (c : RegCpu) (d : DWord) : (c.trapReturn d).mem = c.mem := by
  unfold RegCpu.trapReturn
  simp

theorem regWf_trapReturn {c : RegCpu} (h : RegWf c) (d : DWord) : RegWf (c.trapReturn d) := by
  unfold RegWf
  rw [trapReturn_mem]
  exact h

theorem regWf_afterSource {c : RegCpu} (h : RegWf c) (n : Size) (o : Opnd) : RegWf (c.afterSource n o) := by
  cases o
  · exact h
  · exact h
  · exact h
  · exact regWf_dropN h n

theorem regWf_destUpdate {c : RegCpu} (h : RegWf c) (n : Size) (d : Dest) (v : DWord) : RegWf (c.destUpdate n d v) := by
  cases d
  · exact h
  · exact regWf_memWrite h _ _ _
  · exact regWf_memWrite h _ _ _

theorem regWf_destWrite {c : RegCpu} (h : RegWf c) (n : Size) (d : Dest) (v : DWord) : RegWf (c.destWrite n d v) := by
  cases d
  · exact h
  · exact regWf_memWrite h _ _ _
  · exact regWf_pushN h _ _

theorem regWf_withBit {c : RegCpu} (h : RegWf c) (p : BitPlace) (v : Bool) : RegWf (c.withBit p v) := by
  cases p
  · exact h
  · exact putByte_wf _ _ _ h

theorem regWf_procWrite {c : RegCpu} (h : RegWf c) (p : ProcReg) (n : Size) (v : DWord) : RegWf (c.procWrite p n v) := by
  cases p
  case sp => exact regWf_setSp h _
  all_goals exact h

theorem regWf_stringStep {c : RegCpu} (h : RegWf c) (k : StringKind) (opts : BitVec 4) (i : Size) :
    RegWf (c.stringStep k opts i) := by
  have done : ∀ {d : RegCpu}, RegWf d → RegWf (d.stringDone k) := by
    intro d hd; unfold RegCpu.stringDone; split <;> exact hd
  have body : ∀ e, RegWf (c.stringBody k i e) := by
    intro e
    unfold RegCpu.stringBody
    simp only
    split <;> split <;> first | exact regWf_memWrite h _ _ _ | exact h
  have adv : ∀ {d : RegCpu}, RegWf d → RegWf (d.stringAdvance k opts i) := by
    intro d hd; unfold RegCpu.stringAdvance; simp only; split <;> exact hd
  unfold RegCpu.stringStep
  split
  · exact done h
  · simp only
    split
    · exact h
    · split
      · exact body _
      · split
        · exact done (adv (body _))
        · exact adv (body _)

/-! ## How a RegisterCPU instruction ends -/

/-- The three ends of a RegisterCPU instruction (R240). -/
theorem finishReg_cases (s : State) (r : Except Abort RegCpu) :
    (∃ c, r = .ok c ∧ finishReg s r = .next { s with reg := c }) ∨
    (∃ t, r = .error (.trap t) ∧ finishReg s r = .next { s with reg := s.reg.trapEntry t }) ∨
    (∃ f, r = .error (.fatal f) ∧ finishReg s r = .fault f) := by
  rcases r with (t | f) | c
  · exact .inr (.inl ⟨t, rfl, rfl⟩)
  · exact .inr (.inr ⟨f, rfl, rfl⟩)
  · exact .inl ⟨c, rfl, rfl⟩

@[simp] theorem finishReg_ok (s : State) (c : RegCpu) : finishReg s (.ok c) = .next { s with reg := c } := rfl

@[simp] theorem finishReg_trap (s : State) (t : Trap) :
    finishReg s (.error (.trap t)) = .next { s with reg := s.reg.trapEntry t } := rfl

@[simp] theorem finishReg_fatal (s : State) (f : Fault) : finishReg s (.error (.fatal f)) = .fault f := rfl

@[simp] theorem guarded_true {α : Type} (body : Except Abort α) : guarded true body = body := rfl

@[simp] theorem guarded_false {α : Type} (body : Except Abort α) : guarded false body = undefined := rfl

@[simp] theorem ok_bind {ε α β : Type} (a : α) (f : α → Except ε β) : ((.ok a : Except ε α) >>= f) = f a := rfl

@[simp] theorem error_bind {ε α β : Type} (e : ε) (f : α → Except ε β) : ((.error e : Except ε α) >>= f) = .error e := rfl

@[simp] theorem pure_ok {ε α : Type} (a : α) : (pure a : Except ε α) = .ok a := rfl

/-- A bind that answers, taken apart. -/
theorem bind_eq_ok {ε α β : Type} {x : Except ε α} {f : α → Except ε β} {b : β} (h : (x >>= f) = .ok b) :
    ∃ a, x = .ok a ∧ f a = .ok b := by
  cases x with
  | error e => exact absurd h (by simp)
  | ok a => exact ⟨a, rfl, h⟩

/-- A guard that answers, taken apart. -/
theorem guarded_eq_ok {α : Type} {ok : Bool} {body : Except Abort α} {a : α} (h : guarded ok body = .ok a) :
    ok = true ∧ body = .ok a := by
  cases ok
  · exact absurd h (by simp [undefined])
  · exact ⟨rfl, h⟩

/-- A privileged body that answers ran in supervisor mode. -/
theorem privileged_eq_ok {α : Type} {c : RegCpu} {body : Except Abort α} {a : α} (h : c.privileged body = .ok a) :
    c.user = false ∧ body = .ok a := by
  unfold RegCpu.privileged at h
  split at h
  · cases h
  · exact ⟨by simp_all, h⟩

/-! ## Trap entry -/

@[simp] theorem withPsr_sp_clear (c : RegCpu) (p : Word) (h : psrBit p bitS = false) : (c.withPsr p).sp = c.sp0 := by
  unfold RegCpu.sp; simp [h]

/-- Trap entry clears `S`, `U`, `T` and `P` and keeps every other bit of `psr` (R421). -/
theorem trapKeep_bit (p : Word) (k : Nat) :
    psrBit (p &&& Config.trapPsrKeep) k = (psrBit p k && !(k == bitS || k == bitU || k == bitT || k == bitP)) := by
  by_cases hk : k < 16
  · have : ∀ k : Fin 16, Config.trapPsrKeep.getLsbD k = !(k.val == bitS || k.val == bitU || k.val == bitT || k.val == bitP) := by
      decide
    simp only [psrBit, BitVec.getLsbD_and, this ⟨k, hk⟩]
  · have hp : p.getLsbD k = false := BitVec.getLsbD_of_ge _ _ (by omega)
    simp [psrBit, hp]

/-- The frame that trap entry pushes (R421): `psr` over `mod` at `sp[0] - 4`, `pc` at `sp[0] - 8`. -/
theorem trapFrame_spec (c : RegCpu) :
    c.trapFrame.psr = c.psr &&& Config.trapPsrKeep ∧ c.trapFrame.sp0 = c.sp0 - 8 ∧ c.trapFrame.sp1 = c.sp1 ∧
    c.trapFrame.r = c.r ∧ c.trapFrame.fp = c.fp ∧ c.trapFrame.intbase = c.intbase ∧ c.trapFrame.cfg = c.cfg ∧
    c.trapFrame.mem = ((c.memWrite (c.sp0 - 4) .d (c.psr ++ c.mod)).memWrite (c.sp0 - 8) .d c.pc).mem := by
  have hS : psrBit (c.psr &&& Config.trapPsrKeep) bitS = false := by rw [trapKeep_bit]; simp
  have e : c.sp0 - 4#32 - 4#32 = c.sp0 - 8 := by bv_omega
  have s1 : ∀ (d : RegCpu) (v : DWord), psrBit d.psr bitS = false →
      (d.push32 v).sp0 = d.sp0 - 4#32 ∧ (d.push32 v).sp1 = d.sp1 ∧
      (d.push32 v).mem = (d.memWrite (d.sp0 - 4#32) .d v).mem := by
    intro d v hd
    have hs : d.sp = d.sp0 := by simp [RegCpu.sp, hd]
    refine ⟨by simp [RegCpu.push32, RegCpu.pushN, setSp_sp0, hd, hs, Size.bytes],
      by simp [RegCpu.push32, RegCpu.pushN, setSp_sp1, hd], ?_⟩
    simp only [RegCpu.push32, RegCpu.pushN, hs, Size.bytes]
    exact memWrite_mem_congr (setSp_mem _ _) _ _ _
  obtain ⟨a0, a1, am⟩ := s1 (c.withPsr (c.psr &&& Config.trapPsrKeep)) (c.psr ++ c.mod) (by simpa using hS)
  obtain ⟨b0, b1, bm⟩ := s1 ((c.withPsr (c.psr &&& Config.trapPsrKeep)).push32 (c.psr ++ c.mod)) c.pc (by simpa using hS)
  unfold RegCpu.trapFrame
  refine ⟨by simp, by rw [b0, a0, withPsr_sp0, e], by rw [b1, a1, withPsr_sp1], by simp, by simp, by simp, by simp, ?_⟩
  rw [bm, a0, withPsr_sp0, e]
  refine memWrite_mem_congr ?_ _ _ _
  rw [am, withPsr_sp0]
  exact memWrite_mem_congr (withPsr_mem _ _) _ _ _

/-! ## The host between two steps -/

theorem hostAct_wf (s : State) (a : HostAct) (h : Memory.wf s) : Memory.wf (hostAct s a) := by
  cases a with
  | storeProg a v => exact ⟨cellWrite_wf _ _ _ h.1 a.isLt, h.2.1, h.2.2.1, h.2.2.2⟩
  | storeData a v => exact ⟨h.1, cellWrite_wf _ _ _ h.2.1 a.isLt, h.2.2.1, h.2.2.2⟩
  | storeReturn a v => exact ⟨h.1, h.2.1, cellWrite_wf _ _ _ h.2.2.1 a.isLt, h.2.2.2⟩
  | storeMem a v => exact ⟨h.1, h.2.1, h.2.2.1, putByte_wf _ _ _ h.2.2.2⟩
  | _ => exact h

/-- The host's actions keep the canonical form of the memories. -/
theorem hostPhase_wf (s : State) (h : Memory.wf s) : Memory.wf (hostPhase s) := by
  have all : ∀ (l : List HostAct) (s : State), Memory.wf s → Memory.wf (l.foldl hostAct s) := by
    intro l
    induction l with
    | nil => intro s h; exact h
    | cons a l ih => intro s h; exact ih _ (hostAct_wf _ a h)
  unfold hostPhase
  split
  · exact h
  · exact all _ _ h

end Sys2Proof.Laws
end

