-- ==== Sys2Proof/Laws/Operands.lean ====
section
/-!
SUPPORT. What reading a source and writing a destination do, once for all operand forms; how a shape of instructions that
answers gives the statements' `Updates` and `Writes`.
-/
namespace Sys2Proof.Laws
open Sys2Proof Sys2Proof.Machine

/-! ## Sizes -/

/-- The low bits of a value are the value modulo 2^B (R11). -/
@[simp] theorem toNat_lowBits (n : Size) (v : DWord) : (lowBits n v).toNat = v.toNat % 2 ^ n.bits := by
  have h := v.isLt
  cases n <;> simp [lowBits, Size.bits] <;> omega

theorem lowBits_lt (n : Size) (v : DWord) : (lowBits n v).toNat < 2 ^ n.bits := by
  rw [toNat_lowBits]; exact Nat.mod_lt _ (by positivity)

theorem lowBits_of_lt {n : Size} {v : DWord} (h : v.toNat < 2 ^ n.bits) : lowBits n v = v := by
  apply BitVec.eq_of_toNat_eq; rw [toNat_lowBits, Nat.mod_eq_of_lt h]

@[simp] theorem lowBits_lowBits (n : Size) (v : DWord) : lowBits n (lowBits n v) = lowBits n v :=
  lowBits_of_lt (lowBits_lt n v)

theorem getLsbD_lowBits (n : Size) (v : DWord) (k : Nat) : (lowBits n v).getLsbD k = (decide (k < n.bits) && v.getLsbD k) := by
  have full : v.getLsbD k = (decide (k < 32) && v.getLsbD k) := by
    by_cases h : k < 32
    · simp [h]
    · rw [BitVec.getLsbD_of_ge v k (by omega)]; simp
  cases n
  · by_cases h : k < 8
    · have : k < 32 := by omega
      simp [lowBits, Size.bits, h, this]
    · simp [lowBits, Size.bits, h]
  · by_cases h : k < 16
    · have : k < 32 := by omega
      simp [lowBits, Size.bits, h, this]
    · simp [lowBits, Size.bits, h]
  · exact full
  · exact full

theorem getLsbD_mergeLow (n : Size) (old v : DWord) (k : Nat) :
    (mergeLow n old v).getLsbD k = if k < n.bits then v.getLsbD k else old.getLsbD k := by
  have high : ∀ m, m ≤ 32 → ¬ k < m → (decide (k - m < 32 - m) && old.getLsbD (m + (k - m))) = old.getLsbD k := by
    intro m hm hk
    have e : m + (k - m) = k := by omega
    rw [e]
    by_cases h : k < 32
    · have : k - m < 32 - m := by omega
      simp [this]
    · rw [BitVec.getLsbD_of_ge old k (by omega)]; simp
  cases n
  · by_cases h : k < 8
    · simp only [mergeLow, Size.bits, BitVec.getLsbD_append, h, if_true, BitVec.getLsbD_setWidth, decide_true, Bool.true_and]
    · simp only [mergeLow, Size.bits, BitVec.getLsbD_append, h, BitVec.getLsbD_extractLsb', if_false]
      exact high 8 (by decide) h
  · by_cases h : k < 16
    · simp only [mergeLow, Size.bits, BitVec.getLsbD_append, h, if_true, BitVec.getLsbD_setWidth, decide_true, Bool.true_and]
    · simp only [mergeLow, Size.bits, BitVec.getLsbD_append, h, BitVec.getLsbD_extractLsb', if_false]
      exact high 16 (by decide) h
  all_goals
    by_cases h : k < 32
    · simp [mergeLow, Size.bits, h]
    · simp only [mergeLow, Size.bits, h, if_false]
      rw [BitVec.getLsbD_of_ge v k (by omega), BitVec.getLsbD_of_ge old k (by omega)]

@[simp] theorem lowBits_mergeLow (n : Size) (old v : DWord) : lowBits n (mergeLow n old v) = lowBits n v := by
  apply BitVec.eq_of_getLsbD_eq
  intro k _
  simp only [getLsbD_lowBits, getLsbD_mergeLow]
  by_cases h : k < n.bits <;> simp [h]

theorem memRead_lt (c : RegCpu) (a : DWord) (n : Size) : (c.memRead a n).toNat < 2 ^ n.bits := by
  cases n
  · have := (c.byteAt a).isLt; simp [RegCpu.memRead, Size.bits]; omega
  · have := (c.read16 a).isLt; simp [RegCpu.memRead, Size.bits]; omega
  · exact (c.read32 a).isLt
  · exact (c.read32 a).isLt

theorem read32_congr {c d : RegCpu} (h : c.mem = d.mem) (a : DWord) : c.read32 a = d.read32 a := by
  simp only [RegCpu.read32, RegCpu.read16, RegCpu.byteAt, h]

theorem memRead_congr {c d : RegCpu} (h : c.mem = d.mem) (a : DWord) (n : Size) : c.memRead a n = d.memRead a n := by
  cases n <;> simp only [RegCpu.memRead, RegCpu.read32, RegCpu.read16, RegCpu.byteAt, h]

/-- The value of an immediate of a defined size fits in it (R261). -/
theorem wfImm_lt {n : Size} {v : Imm} (h : wfImm n v = true) : v.value.toNat < 2 ^ n.bits := by
  cases n <;> cases v <;> simp [wfImm] at h <;> simp [Imm.value, Size.bits] <;> omega

/-- The value of a source fits in its size (R269). -/
theorem srcValue_lt {c : RegCpu} {n : Size} {g : Gen} {o : Opnd} (hg : wfGen n g = true) (h : c.resolve g = .ok o) :
    (c.srcValue n o).toNat < 2 ^ n.bits := by
  cases g <;> simp [RegCpu.resolve, undefined] at h <;> subst h <;> simp only [RegCpu.srcValue]
  case reg => exact lowBits_lt _ _
  case imm => exact wfImm_lt hg
  all_goals exact memRead_lt _ _ _

theorem destValue_lt (c : RegCpu) (n : Size) (d : Dest) : (c.destValue n d).toNat < 2 ^ n.bits := by
  cases d
  · exact lowBits_lt _ _
  · exact memRead_lt _ _ _
  · exact memRead_lt _ _ _

/-! ## Reading a source -/

@[simp] theorem afterSource_r (c : RegCpu) (n : Size) (o : Opnd) : (c.afterSource n o).r = c.r := by
  cases o <;> simp [RegCpu.afterSource]
@[simp] theorem afterSource_pc (c : RegCpu) (n : Size) (o : Opnd) : (c.afterSource n o).pc = c.pc := by
  cases o <;> simp [RegCpu.afterSource]
@[simp] theorem afterSource_sb (c : RegCpu) (n : Size) (o : Opnd) : (c.afterSource n o).sb = c.sb := by
  cases o <;> simp [RegCpu.afterSource]
@[simp] theorem afterSource_fp (c : RegCpu) (n : Size) (o : Opnd) : (c.afterSource n o).fp = c.fp := by
  cases o <;> simp [RegCpu.afterSource]
@[simp] theorem afterSource_intbase (c : RegCpu) (n : Size) (o : Opnd) : (c.afterSource n o).intbase = c.intbase := by
  cases o <;> simp [RegCpu.afterSource]
@[simp] theorem afterSource_mod (c : RegCpu) (n : Size) (o : Opnd) : (c.afterSource n o).mod = c.mod := by
  cases o <;> simp [RegCpu.afterSource]
@[simp] theorem afterSource_psr (c : RegCpu) (n : Size) (o : Opnd) : (c.afterSource n o).psr = c.psr := by
  cases o <;> simp [RegCpu.afterSource]
@[simp] theorem afterSource_cfg (c : RegCpu) (n : Size) (o : Opnd) : (c.afterSource n o).cfg = c.cfg := by
  cases o <;> simp [RegCpu.afterSource]
@[simp] theorem afterSource_mem (c : RegCpu) (n : Size) (o : Opnd) : (c.afterSource n o).mem = c.mem := by
  cases o <;> simp [RegCpu.afterSource]

/-- Reading a source changes the stack pointers at most. -/
theorem afterSource_eq (c : RegCpu) (n : Size) (o : Opnd) :
    c.afterSource n o = { c with sp0 := (c.afterSource n o).sp0, sp1 := (c.afterSource n o).sp1 } := by
  cases o
  · rfl
  · rfl
  · rfl
  · simp only [RegCpu.afterSource, RegCpu.dropN, RegCpu.setSp]; split <;> rfl

/-! ## Writing a destination -/

@[simp] theorem destUpdate_sp0 (c : RegCpu) (n : Size) (d : Dest) (v : DWord) : (c.destUpdate n d v).sp0 = c.sp0 := by
  cases d <;> simp [RegCpu.destUpdate]
@[simp] theorem destUpdate_sp1 (c : RegCpu) (n : Size) (d : Dest) (v : DWord) : (c.destUpdate n d v).sp1 = c.sp1 := by
  cases d <;> simp [RegCpu.destUpdate]
@[simp] theorem destUpdate_psr (c : RegCpu) (n : Size) (d : Dest) (v : DWord) : (c.destUpdate n d v).psr = c.psr := by
  cases d <;> simp [RegCpu.destUpdate]
@[simp] theorem destUpdate_pc (c : RegCpu) (n : Size) (d : Dest) (v : DWord) : (c.destUpdate n d v).pc = c.pc := by
  cases d <;> simp [RegCpu.destUpdate]

/-- A read-modify-write of a destination changes the register file or memory only. -/
theorem destUpdate_eq (c : RegCpu) (n : Size) (d : Dest) (v : DWord) :
    c.destUpdate n d v = { c with r := (c.destUpdate n d v).r, mem := (c.destUpdate n d v).mem } := by
  apply RegCpu.ext <;> cases d <;> simp [RegCpu.destUpdate]

@[simp] theorem destWrite_psr (c : RegCpu) (n : Size) (d : Dest) (v : DWord) : (c.destWrite n d v).psr = c.psr := by
  cases d <;> simp [RegCpu.destWrite]
@[simp] theorem destWrite_pc (c : RegCpu) (n : Size) (d : Dest) (v : DWord) : (c.destWrite n d v).pc = c.pc := by
  cases d <;> simp [RegCpu.destWrite]
@[simp] theorem destWrite_sp0 (c : RegCpu) (n : Size) (d : Dest) (v : DWord) :
    (c.destWrite n d v).sp0 = (c.spAfterWrite n d).sp0 := by
  cases d <;> simp [RegCpu.destWrite, RegCpu.spAfterWrite, RegCpu.pushN]
@[simp] theorem destWrite_sp1 (c : RegCpu) (n : Size) (d : Dest) (v : DWord) :
    (c.destWrite n d v).sp1 = (c.spAfterWrite n d).sp1 := by
  cases d <;> simp [RegCpu.destWrite, RegCpu.spAfterWrite, RegCpu.pushN]

/-- A write to a destination changes the register file or memory, and `SP` by a push. -/
theorem destWrite_eq (c : RegCpu) (n : Size) (d : Dest) (v : DWord) :
    c.destWrite n d v = { c.spAfterWrite n d with r := (c.destWrite n d v).r, mem := (c.destWrite n d v).mem } := by
  apply RegCpu.ext <;> cases d <;> simp [RegCpu.destWrite, RegCpu.spAfterWrite, RegCpu.pushN]

/-- What was written is read back, at the destination's size. -/
theorem destValue_destUpdate (c : RegCpu) (n : Size) (d : Dest) (v : DWord) :
    (c.destUpdate n d v).destValue n d = lowBits n v := by
  cases d <;> simp [RegCpu.destUpdate, RegCpu.destValue]

theorem destValue_destWrite (c : RegCpu) (n : Size) (d : Dest) (v : DWord) :
    (c.destWrite n d v).destValue n d = lowBits n v := by
  cases d
  · simp [RegCpu.destWrite, RegCpu.destValue]
  · simp [RegCpu.destWrite, RegCpu.destValue]
  · simp only [RegCpu.destWrite, RegCpu.destValue, pushN_sp]
    exact memRead_memWrite _ _ _ _

/-- A destination's value looks at `psr` for the stack select only. -/
theorem destValue_congr {c t : RegCpu} (n : Size) (d : Dest) (hr : t.r = c.r) (hm : t.mem = c.mem) (hs : t.sp = c.sp) :
    t.destValue n d = c.destValue n d := by
  cases d
  · simp only [RegCpu.destValue, reg_congr hr]
  · simp only [RegCpu.destValue, memRead_congr hm]
  · simp only [RegCpu.destValue, hs, memRead_congr hm]

/-- The registers and bytes that a read-modify-write leaves alone. -/
theorem destUpdate_frame (c : RegCpu) (n : Size) (d : Dest) (v : DWord) :
    (∀ k, d ≠ .reg k → (c.destUpdate n d v).reg k = c.reg k) ∧
    (∀ k b, d = .reg k → n.bits ≤ b → ((c.destUpdate n d v).reg k).getLsbD b = (c.reg k).getLsbD b) ∧
    (∀ x, (∀ a, c.updateAddr d = some a → outside n.bytes a x) → (c.destUpdate n d v).byteAt x = c.byteAt x) := by
  refine ⟨?_, ?_, ?_⟩
  · intro k hk
    cases d
    · next j =>
      have : k ≠ j := fun e => hk (e ▸ rfl)
      simp [RegCpu.destUpdate, reg_setReg, this]
    · exact reg_congr (by simp [RegCpu.destUpdate]) k
    · exact reg_congr (by simp [RegCpu.destUpdate]) k
  · intro k b hk hb
    subst hk
    have : ¬ b < n.bits := by omega
    simp [RegCpu.destUpdate, getLsbD_mergeLow, this]
  · intro x hx
    cases d
    · rfl
    · exact byteAt_memWrite_outside _ _ _ _ _ (hx _ rfl)
    · exact byteAt_memWrite_outside _ _ _ _ _ (hx _ rfl)

/-- The registers and bytes that a write leaves alone. -/
theorem destWrite_frame (c : RegCpu) (n : Size) (d : Dest) (v : DWord) :
    (∀ k, d ≠ .reg k → (c.destWrite n d v).reg k = c.reg k) ∧
    (∀ k b, d = .reg k → n.bits ≤ b → ((c.destWrite n d v).reg k).getLsbD b = (c.reg k).getLsbD b) ∧
    (∀ x, (∀ a, c.writeAddr n d = some a → outside n.bytes a x) → (c.destWrite n d v).byteAt x = c.byteAt x) := by
  refine ⟨?_, ?_, ?_⟩
  · intro k hk
    cases d
    · next j =>
      have : k ≠ j := fun e => hk (e ▸ rfl)
      simp [RegCpu.destWrite, reg_setReg, this]
    · exact reg_congr (by simp [RegCpu.destWrite]) k
    · exact reg_congr (by simp [RegCpu.destWrite]) k
  · intro k b hk hb
    subst hk
    have : ¬ b < n.bits := by omega
    simp [RegCpu.destWrite, getLsbD_mergeLow, this]
  · intro x hx
    cases d
    · rfl
    · exact byteAt_memWrite_outside _ _ _ _ _ (hx _ rfl)
    · rw [RegCpu.destWrite, RegCpu.pushN, byteAt_memWrite_outside _ _ _ _ _ (hx _ rfl)]
      exact byteAt_congr (setSp_mem _ _) x

/-! ## Statements about `psr` -/

theorem psrBit_setPsrBit (p : Word) (k j : Nat) (v : Bool) (hk : k < 16) :
    psrBit (setPsrBit p k v) j = if j = k then v else psrBit p j := by
  unfold psrBit setPsrBit
  split
  · by_cases h : j = k
    · subst h; simp [*]
    · have : ¬ k = j := fun e => h e.symm
      simp [BitVec.getLsbD_or, BitVec.getLsbD_twoPow, h, this]
  · by_cases h : j = k
    · subst h; simp_all
    · have : ¬ k = j := fun e => h e.symm
      by_cases hj : j < 16
      · simp [h, hj]
      · rw [BitVec.getLsbD_of_ge _ j (by omega), BitVec.getLsbD_of_ge _ j (by omega)]; simp [h]

theorem psrBit_setCF (p : Word) (c f : Bool) (j : Nat) :
    psrBit (setCF p c f) j = if j = 5 then f else if j = 0 then c else psrBit p j := by
  unfold setCF; rw [psrBit_setPsrBit _ _ _ _ (by decide), psrBit_setPsrBit _ _ _ _ (by decide)]

theorem psrBit_setZNL (p : Word) (z n l : Bool) (j : Nat) :
    psrBit (setZNL p z n l) j = if j = 2 then l else if j = 7 then n else if j = 6 then z else psrBit p j := by
  unfold setZNL
  rw [psrBit_setPsrBit _ _ _ _ (by decide), psrBit_setPsrBit _ _ _ _ (by decide), psrBit_setPsrBit _ _ _ _ (by decide)]

/-- Two status words with the same sixteen bits are the same. -/
theorem psr_ext {p q : Word} (h : ∀ k < 16, psrBit p k = psrBit q k) : p = q :=
  BitVec.eq_of_getLsbD_eq fun k hk => h k hk

/-! ## From shapes to statements -/

/-- An update that keeps the stack select gives the statement `Updates`. -/
theorem updates_of {ins : Instr} {s : State} {c1 : RegCpu} {n : Size} {d : Dest} {len : Nat} {val : Int}
    {flags : List (Nat × Bool)} (r : DWord) (p : Word)
    (hc : c1 = { s.reg with sp0 := c1.sp0, sp1 := c1.sp1 })
    (he : exec ins s = .next { s with reg := ((c1.destUpdate n d r).withPsr p).advance len })
    (hv : ((lowBits n r).toNat : Int) = val % 2 ^ n.bits) (hp : PsrOnly s.reg.psr p flags)
    (hS : flags.lookup bitS = none) : Updates ins s c1 n d len val flags := by
  have hr : c1.r = s.reg.r := by rw [hc]
  have hm : c1.mem = s.reg.mem := by rw [hc]
  have hps : c1.psr = s.reg.psr := by rw [hc]
  have hS' : psrBit p bitS = psrBit c1.psr bitS := by
    have := hp bitS (by decide); rw [this, hS, hps]; rfl
  have hsp : (((c1.destUpdate n d r).withPsr p).advance len).sp = (c1.destUpdate n d r).sp := by
    unfold RegCpu.sp; simp [hS']
  refine ⟨_, he, ?_, by simpa using hp, ?_, by simp, by simp, ?_⟩
  · rw [destValue_congr n d (by simp) (by simp) hsp, destValue_destUpdate, hv]
  · simp; rw [hc]
  · obtain ⟨f1, f2, f3⟩ := destUpdate_frame c1 n d r
    refine ⟨fun k hk => ?_, fun k b hk hb => ?_, fun x hx => ?_, ?_⟩
    · exact (f1 k hk).trans (reg_congr hr k)
    · exact (f2 k b hk hb).trans (by rw [reg_congr hr k])
    · exact (f3 x hx).trans (byteAt_congr hm x)
    · rw [destUpdate_eq, hc]; rfl

/-- A write that keeps the stack select gives the statement `Writes`. -/
theorem writes_of {ins : Instr} {s : State} {c1 : RegCpu} {n : Size} {d : Dest} {len : Nat} {val : Int}
    {flags : List (Nat × Bool)} (r : DWord) (p : Word)
    (hc : c1 = { s.reg with sp0 := c1.sp0, sp1 := c1.sp1 })
    (he : exec ins s = .next { s with reg := ((c1.destWrite n d r).withPsr p).advance len })
    (hv : ((lowBits n r).toNat : Int) = val % 2 ^ n.bits) (hp : PsrOnly s.reg.psr p flags)
    (hS : flags.lookup bitS = none) : Writes ins s c1 n d len val flags := by
  have hr : c1.r = s.reg.r := by rw [hc]
  have hm : c1.mem = s.reg.mem := by rw [hc]
  have hps : c1.psr = s.reg.psr := by rw [hc]
  have hS' : psrBit p bitS = psrBit c1.psr bitS := by
    have := hp bitS (by decide); rw [this, hS, hps]; rfl
  have hsp : (((c1.destWrite n d r).withPsr p).advance len).sp = (c1.destWrite n d r).sp := by
    unfold RegCpu.sp; simp [hS']
  refine ⟨_, he, ?_, by simpa using hp, ?_, by simp, by simp, ?_⟩
  · rw [destValue_congr n d (by simp) (by simp) hsp, destValue_destWrite, hv]
  · simp; rw [hc]
  · obtain ⟨f1, f2, f3⟩ := destWrite_frame c1 n d r
    refine ⟨fun k hk => ?_, fun k b hk hb => ?_, fun x hx => ?_, ?_⟩
    · exact (f1 k hk).trans (reg_congr hr k)
    · exact (f2 k b hk hb).trans (by rw [reg_congr hr k])
    · exact (f3 x hx).trans (byteAt_congr hm x)
    · have e : c1.spAfterWrite n d = { c1 with sp0 := (c1.spAfterWrite n d).sp0, sp1 := (c1.spAfterWrite n d).sp1 } := by
        apply RegCpu.ext <;> cases d <;> simp [RegCpu.spAfterWrite]
      rw [destWrite_eq, e, hc]; rfl

end Sys2Proof.Laws
end

