-- ==== Sys2Proof/Laws/PerInstr.lean ====
section
/-!
SUPPORT. Laws proved constructor by constructor.

`EncodedLength` (R100, R120): a RegisterCPU instruction is written in one to nineteen bytes, a StackCPU instruction in one
word.
-/
namespace Sys2Proof.Laws
open Sys2Proof

/-- The encoding is one word, or between one and nineteen bytes (R100, R120). -/
def EncodedLength.Statement (i : Instr) : Prop := ∀ bs, encode i = .bytes bs → 0 < bs.length ∧ bs.length ≤ 19

theorem disp_len_le (d : Disp) : d.len ≤ 4 := by cases d <;> simp [Disp.len]

theorem gen_len_le (g : Gen) : g.len ≤ 8 := by
  cases g
  case rel r d => exact le_trans (disp_len_le d) (by decide)
  case memRel b d1 d2 => exact add_le_add (disp_len_le d1) (disp_len_le d2)
  case imm v => cases v <;> simp [Gen.len, Imm.len]
  case abs d => exact le_trans (disp_len_le d) (by decide)
  case ext d1 d2 => exact add_le_add (disp_len_le d1) (disp_len_le d2)
  case space b d => exact le_trans (disp_len_le d) (by decide)
  all_goals simp [Gen.len]

/-! ## One lemma per encoding shape -/

theorem encodedLength_word {i : Instr} {w : Word} (h : encode i = .word w) : EncodedLength.Statement i := by
  intro bs e; rw [h] at e; cases e

theorem encodedLength_bytes {i : Instr} {b : Byte} {tail : List Byte} (h : encode i = .bytes (b :: tail))
    (hl : tail.length ≤ 18) : EncodedLength.Statement i := by
  intro bs e
  rw [h] at e
  cases e
  exact ⟨by simp, by simp; omega⟩

theorem encodedLength_disp {i : Instr} {b : Byte} {d : Disp} (h : encode i = .bytes (b :: d.bytes)) :
    EncodedLength.Statement i :=
  encodedLength_bytes h (by have := disp_len_le d; simp; omega)

theorem encodedLength_two {i : Instr} {w : Nat} {g : Gen} {tail : List Byte}
    (h : encode i = .bytes (wordLE w ++ (g.bytes ++ tail))) (ht : tail.length ≤ 8) : EncodedLength.Statement i :=
  encodedLength_bytes h (by have := gen_len_le g; simp; omega)

theorem encodedLength_single {i : Instr} {w : Nat} {g : Gen} (h : encode i = .bytes (wordLE w ++ g.bytes)) :
    EncodedLength.Statement i :=
  encodedLength_bytes h (by have := gen_len_le g; simp; omega)

theorem encodedLength_three {i : Instr} {b : Byte} {w : Nat} {g1 g2 : Gen}
    (h : encode i = .bytes (b :: (wordLE w ++ (g1.bytes ++ g2.bytes)))) : EncodedLength.Statement i :=
  encodedLength_bytes h (by have := gen_len_le g1; have := gen_len_le g2; simp; omega)

/-! ## The constructors -/

theorem EncodedLength.sCall (target : BitVec 15) : EncodedLength.Statement (.sCall target) := encodedLength_word rfl
theorem EncodedLength.sIf (addr : BitVec 12) : EncodedLength.Statement (.sIf addr) := encodedLength_word rfl
theorem EncodedLength.sLoop (addr : BitVec 12) : EncodedLength.Statement (.sLoop addr) := encodedLength_word rfl
theorem EncodedLength.sElse (addr : BitVec 12) : EncodedLength.Statement (.sElse addr) := encodedLength_word rfl
theorem EncodedLength.aluT (o : AluOpts) : EncodedLength.Statement (.aluT o) := encodedLength_word rfl
theorem EncodedLength.aluAnd (o : AluOpts) : EncodedLength.Statement (.aluAnd o) := encodedLength_word rfl
theorem EncodedLength.aluSub (o : AluOpts) : EncodedLength.Statement (.aluSub o) := encodedLength_word rfl
theorem EncodedLength.aluOr (o : AluOpts) : EncodedLength.Statement (.aluOr o) := encodedLength_word rfl
theorem EncodedLength.aluAdd (o : AluOpts) : EncodedLength.Statement (.aluAdd o) := encodedLength_word rfl
theorem EncodedLength.aluXor (o : AluOpts) : EncodedLength.Statement (.aluXor o) := encodedLength_word rfl
theorem EncodedLength.aluSuby (o : AluOpts) : EncodedLength.Statement (.aluSuby o) := encodedLength_word rfl
theorem EncodedLength.aluY (o : AluOpts) : EncodedLength.Statement (.aluY o) := encodedLength_word rfl
theorem EncodedLength.lfetch (op : AluOp) (tn : Bool) (ret : Bool) (a5 : BitVec 5) : EncodedLength.Statement (.lfetch op tn ret a5) :=
  encodedLength_word rfl
theorem EncodedLength.ifetch (op : AluOp) (tn : Bool) (ret : Bool) (sa : Bool) (slot : Fin 16) : EncodedLength.Statement (.ifetch op tn ret sa slot) :=
  encodedLength_word rfl
theorem EncodedLength.lits (op : AluOp) (tn : Bool) (ret : Bool) (a5 : BitVec 5) : EncodedLength.Statement (.lits op tn ret a5) :=
  encodedLength_word rfl
theorem EncodedLength.litl (op : AluOp) (tn : Bool) (ret : Bool) (a5 : BitVec 5) : EncodedLength.Statement (.litl op tn ret a5) :=
  encodedLength_word rfl
theorem EncodedLength.lstore (op : AluOp) (tn : Bool) (ret : Bool) (a5 : BitVec 5) : EncodedLength.Statement (.lstore op tn ret a5) :=
  encodedLength_word rfl
theorem EncodedLength.istore (op : AluOp) (tn : Bool) (ret : Bool) (slot : Fin 16) : EncodedLength.Statement (.istore op tn ret slot) :=
  encodedLength_word rfl
theorem EncodedLength.istoreSa (op : AluOp) (tn : Bool) (ret : Bool) (slot : Fin 16) : EncodedLength.Statement (.istoreSa op tn ret slot) :=
  encodedLength_word rfl
theorem EncodedLength.iswap (op : AluOp) (tn : Bool) (ret : Bool) (sa : Bool) (slot : Fin 16) : EncodedLength.Statement (.iswap op tn ret sa slot) :=
  encodedLength_word rfl
theorem EncodedLength.lliReserved (op : AluOp) (tn : Bool) (ret : Bool) (a5 : BitVec 5) : EncodedLength.Statement (.lliReserved op tn ret a5) :=
  encodedLength_word rfl
theorem EncodedLength.mfetch0 (op : AluOp) (tn : Bool) (ret : Bool) (lit5 : BitVec 5) : EncodedLength.Statement (.mfetch0 op tn ret lit5) :=
  encodedLength_word rfl
theorem EncodedLength.mfetch1 (op : AluOp) (tn : Bool) (ret : Bool) (lit5 : BitVec 5) : EncodedLength.Statement (.mfetch1 op tn ret lit5) :=
  encodedLength_word rfl
theorem EncodedLength.mfetch2 (op : AluOp) (tn : Bool) (ret : Bool) (lit5 : BitVec 5) : EncodedLength.Statement (.mfetch2 op tn ret lit5) :=
  encodedLength_word rfl
theorem EncodedLength.mfetchx (op : AluOp) (tn : Bool) (ret : Bool) (lit5 : BitVec 5) : EncodedLength.Statement (.mfetchx op tn ret lit5) :=
  encodedLength_word rfl
theorem EncodedLength.mstore0 (op : AluOp) (tn : Bool) (ret : Bool) (lit5 : BitVec 5) : EncodedLength.Statement (.mstore0 op tn ret lit5) :=
  encodedLength_word rfl
theorem EncodedLength.mstore1 (op : AluOp) (tn : Bool) (ret : Bool) (lit5 : BitVec 5) : EncodedLength.Statement (.mstore1 op tn ret lit5) :=
  encodedLength_word rfl
theorem EncodedLength.mstore2 (op : AluOp) (tn : Bool) (ret : Bool) (lit5 : BitVec 5) : EncodedLength.Statement (.mstore2 op tn ret lit5) :=
  encodedLength_word rfl
theorem EncodedLength.mstorex (op : AluOp) (tn : Bool) (ret : Bool) (lit5 : BitVec 5) : EncodedLength.Statement (.mstorex op tn ret lit5) :=
  encodedLength_word rfl
theorem EncodedLength.beq (d : Disp) : EncodedLength.Statement (.beq d) := encodedLength_disp rfl
theorem EncodedLength.bne (d : Disp) : EncodedLength.Statement (.bne d) := encodedLength_disp rfl
theorem EncodedLength.bcs (d : Disp) : EncodedLength.Statement (.bcs d) := encodedLength_disp rfl
theorem EncodedLength.bcc (d : Disp) : EncodedLength.Statement (.bcc d) := encodedLength_disp rfl
theorem EncodedLength.bhi (d : Disp) : EncodedLength.Statement (.bhi d) := encodedLength_disp rfl
theorem EncodedLength.bls (d : Disp) : EncodedLength.Statement (.bls d) := encodedLength_disp rfl
theorem EncodedLength.bgt (d : Disp) : EncodedLength.Statement (.bgt d) := encodedLength_disp rfl
theorem EncodedLength.ble (d : Disp) : EncodedLength.Statement (.ble d) := encodedLength_disp rfl
theorem EncodedLength.bfs (d : Disp) : EncodedLength.Statement (.bfs d) := encodedLength_disp rfl
theorem EncodedLength.bfc (d : Disp) : EncodedLength.Statement (.bfc d) := encodedLength_disp rfl
theorem EncodedLength.blo (d : Disp) : EncodedLength.Statement (.blo d) := encodedLength_disp rfl
theorem EncodedLength.bhs (d : Disp) : EncodedLength.Statement (.bhs d) := encodedLength_disp rfl
theorem EncodedLength.blt (d : Disp) : EncodedLength.Statement (.blt d) := encodedLength_disp rfl
theorem EncodedLength.bge (d : Disp) : EncodedLength.Statement (.bge d) := encodedLength_disp rfl
theorem EncodedLength.br (d : Disp) : EncodedLength.Statement (.br d) := encodedLength_disp rfl
theorem EncodedLength.bn (d : Disp) : EncodedLength.Statement (.bn d) := encodedLength_disp rfl
theorem EncodedLength.bsr (d : Disp) : EncodedLength.Statement (.bsr d) := encodedLength_disp rfl
theorem EncodedLength.ret (d : Disp) : EncodedLength.Statement (.ret d) := encodedLength_disp rfl
theorem EncodedLength.cxp (d : Disp) : EncodedLength.Statement (.cxp d) := encodedLength_disp rfl
theorem EncodedLength.rxp (d : Disp) : EncodedLength.Statement (.rxp d) := encodedLength_disp rfl
theorem EncodedLength.rett (d : Disp) : EncodedLength.Statement (.rett d) := encodedLength_disp rfl
theorem EncodedLength.reti : EncodedLength.Statement (.reti) := encodedLength_bytes rfl (by simp)
theorem EncodedLength.save (mask : Byte) : EncodedLength.Statement (.save mask) := encodedLength_bytes rfl (by simp)
theorem EncodedLength.restore (mask : Byte) : EncodedLength.Statement (.restore mask) := encodedLength_bytes rfl (by simp)
theorem EncodedLength.enter (mask : Byte) (d : Disp) : EncodedLength.Statement (.enter mask d) :=
  encodedLength_bytes rfl (by have := disp_len_le d; simp; omega)
theorem EncodedLength.exitI (mask : Byte) : EncodedLength.Statement (.exitI mask) := encodedLength_bytes rfl (by simp)
theorem EncodedLength.nop : EncodedLength.Statement (.nop) := encodedLength_bytes rfl (by simp)
theorem EncodedLength.wait : EncodedLength.Statement (.wait) := encodedLength_bytes rfl (by simp)
theorem EncodedLength.dia : EncodedLength.Statement (.dia) := encodedLength_bytes rfl (by simp)
theorem EncodedLength.flag : EncodedLength.Statement (.flag) := encodedLength_bytes rfl (by simp)
theorem EncodedLength.svc : EncodedLength.Statement (.svc) := encodedLength_bytes rfl (by simp)
theorem EncodedLength.bpt : EncodedLength.Statement (.bpt) := encodedLength_bytes rfl (by simp)
theorem EncodedLength.movs (opts : BitVec 4) (i : Size) : EncodedLength.Statement (.movs opts i) :=
  encodedLength_bytes rfl (by simp)
theorem EncodedLength.cmps (opts : BitVec 4) (i : Size) : EncodedLength.Statement (.cmps opts i) :=
  encodedLength_bytes rfl (by simp)
theorem EncodedLength.setcfg (short : BitVec 4) (i : Size) : EncodedLength.Statement (.setcfg short i) :=
  encodedLength_bytes rfl (by simp)
theorem EncodedLength.skps (opts : BitVec 4) (i : Size) : EncodedLength.Statement (.skps opts i) :=
  encodedLength_bytes rfl (by simp)
theorem EncodedLength.rot (i : Size) (g1 : Gen) (g2 : Gen) : EncodedLength.Statement (.rot i g1 g2) :=
  encodedLength_three rfl
theorem EncodedLength.ash (i : Size) (g1 : Gen) (g2 : Gen) : EncodedLength.Statement (.ash i g1 g2) :=
  encodedLength_three rfl
theorem EncodedLength.cbit (i : Size) (g1 : Gen) (g2 : Gen) : EncodedLength.Statement (.cbit i g1 g2) :=
  encodedLength_three rfl
theorem EncodedLength.cbiti (i : Size) (g1 : Gen) (g2 : Gen) : EncodedLength.Statement (.cbiti i g1 g2) :=
  encodedLength_three rfl
theorem EncodedLength.lsh (i : Size) (g1 : Gen) (g2 : Gen) : EncodedLength.Statement (.lsh i g1 g2) :=
  encodedLength_three rfl
theorem EncodedLength.sbit (i : Size) (g1 : Gen) (g2 : Gen) : EncodedLength.Statement (.sbit i g1 g2) :=
  encodedLength_three rfl
theorem EncodedLength.sbiti (i : Size) (g1 : Gen) (g2 : Gen) : EncodedLength.Statement (.sbiti i g1 g2) :=
  encodedLength_three rfl
theorem EncodedLength.neg (i : Size) (g1 : Gen) (g2 : Gen) : EncodedLength.Statement (.neg i g1 g2) :=
  encodedLength_three rfl
theorem EncodedLength.notI (i : Size) (g1 : Gen) (g2 : Gen) : EncodedLength.Statement (.notI i g1 g2) :=
  encodedLength_three rfl
theorem EncodedLength.subp (i : Size) (g1 : Gen) (g2 : Gen) : EncodedLength.Statement (.subp i g1 g2) :=
  encodedLength_three rfl
theorem EncodedLength.absI (i : Size) (g1 : Gen) (g2 : Gen) : EncodedLength.Statement (.absI i g1 g2) :=
  encodedLength_three rfl
theorem EncodedLength.com (i : Size) (g1 : Gen) (g2 : Gen) : EncodedLength.Statement (.com i g1 g2) :=
  encodedLength_three rfl
theorem EncodedLength.ibit (i : Size) (g1 : Gen) (g2 : Gen) : EncodedLength.Statement (.ibit i g1 g2) :=
  encodedLength_three rfl
theorem EncodedLength.addp (i : Size) (g1 : Gen) (g2 : Gen) : EncodedLength.Statement (.addp i g1 g2) :=
  encodedLength_three rfl
theorem EncodedLength.movm (i : Size) (g1 : Gen) (g2 : Gen) : EncodedLength.Statement (.movm i g1 g2) :=
  encodedLength_three rfl
theorem EncodedLength.cmpm (i : Size) (g1 : Gen) (g2 : Gen) : EncodedLength.Statement (.cmpm i g1 g2) :=
  encodedLength_three rfl
theorem EncodedLength.inss (i : Size) (g1 : Gen) (g2 : Gen) : EncodedLength.Statement (.inss i g1 g2) :=
  encodedLength_three rfl
theorem EncodedLength.exts (i : Size) (g1 : Gen) (g2 : Gen) : EncodedLength.Statement (.exts i g1 g2) :=
  encodedLength_three rfl
theorem EncodedLength.movxbw (i : Size) (g1 : Gen) (g2 : Gen) : EncodedLength.Statement (.movxbw i g1 g2) :=
  encodedLength_three rfl
theorem EncodedLength.movzbw (i : Size) (g1 : Gen) (g2 : Gen) : EncodedLength.Statement (.movzbw i g1 g2) :=
  encodedLength_three rfl
theorem EncodedLength.movzid (i : Size) (g1 : Gen) (g2 : Gen) : EncodedLength.Statement (.movzid i g1 g2) :=
  encodedLength_three rfl
theorem EncodedLength.movxid (i : Size) (g1 : Gen) (g2 : Gen) : EncodedLength.Statement (.movxid i g1 g2) :=
  encodedLength_three rfl
theorem EncodedLength.mul (i : Size) (g1 : Gen) (g2 : Gen) : EncodedLength.Statement (.mul i g1 g2) :=
  encodedLength_three rfl
theorem EncodedLength.mei (i : Size) (g1 : Gen) (g2 : Gen) : EncodedLength.Statement (.mei i g1 g2) :=
  encodedLength_three rfl
theorem EncodedLength.dei (i : Size) (g1 : Gen) (g2 : Gen) : EncodedLength.Statement (.dei i g1 g2) :=
  encodedLength_three rfl
theorem EncodedLength.quo (i : Size) (g1 : Gen) (g2 : Gen) : EncodedLength.Statement (.quo i g1 g2) :=
  encodedLength_three rfl
theorem EncodedLength.rem (i : Size) (g1 : Gen) (g2 : Gen) : EncodedLength.Statement (.rem i g1 g2) :=
  encodedLength_three rfl
theorem EncodedLength.modI (i : Size) (g1 : Gen) (g2 : Gen) : EncodedLength.Statement (.modI i g1 g2) :=
  encodedLength_three rfl
theorem EncodedLength.divI (i : Size) (g1 : Gen) (g2 : Gen) : EncodedLength.Statement (.divI i g1 g2) :=
  encodedLength_three rfl
theorem EncodedLength.undefinedB10 (u : UndefB10) : EncodedLength.Statement (.undefinedB10 u) := by
  cases u <;> exact encodedLength_bytes rfl (by simp)
theorem EncodedLength.cxpd (i : Size) (g : Gen) : EncodedLength.Statement (.cxpd i g) := encodedLength_single rfl
theorem EncodedLength.bicpsr (i : Size) (g : Gen) : EncodedLength.Statement (.bicpsr i g) := encodedLength_single rfl
theorem EncodedLength.jump (i : Size) (g : Gen) : EncodedLength.Statement (.jump i g) := encodedLength_single rfl
theorem EncodedLength.bispsr (i : Size) (g : Gen) : EncodedLength.Statement (.bispsr i g) := encodedLength_single rfl
theorem EncodedLength.adjsp (i : Size) (g : Gen) : EncodedLength.Statement (.adjsp i g) := encodedLength_single rfl
theorem EncodedLength.jsr (i : Size) (g : Gen) : EncodedLength.Statement (.jsr i g) := encodedLength_single rfl
theorem EncodedLength.caseI (i : Size) (g : Gen) : EncodedLength.Statement (.caseI i g) := encodedLength_single rfl
theorem EncodedLength.undefinedF3 (gen : Fin 32) (op : Fin 16) (i : Size) : EncodedLength.Statement (.undefinedF3 gen op i) :=
  encodedLength_bytes rfl (by simp)
theorem EncodedLength.addq (quick : BitVec 4) (i : Size) (g : Gen) : EncodedLength.Statement (.addq quick i g) :=
  encodedLength_two rfl (by simp)
theorem EncodedLength.cmpq (quick : BitVec 4) (i : Size) (g : Gen) : EncodedLength.Statement (.cmpq quick i g) :=
  encodedLength_two rfl (by simp)
theorem EncodedLength.spr (procreg : BitVec 4) (i : Size) (g : Gen) : EncodedLength.Statement (.spr procreg i g) :=
  encodedLength_two rfl (by simp)
theorem EncodedLength.scond (c : Cond) (i : Size) (g : Gen) : EncodedLength.Statement (.scond c i g) :=
  encodedLength_two rfl (by simp)
theorem EncodedLength.acb (quick : BitVec 4) (i : Size) (g : Gen) (d : Disp) : EncodedLength.Statement (.acb quick i g d) :=
  encodedLength_two rfl (by have := disp_len_le d; simp; omega)
theorem EncodedLength.movq (quick : BitVec 4) (i : Size) (g : Gen) : EncodedLength.Statement (.movq quick i g) :=
  encodedLength_two rfl (by simp)
theorem EncodedLength.lpr (procreg : BitVec 4) (i : Size) (g : Gen) : EncodedLength.Statement (.lpr procreg i g) :=
  encodedLength_two rfl (by simp)
theorem EncodedLength.add (i : Size) (g1 : Gen) (g2 : Gen) : EncodedLength.Statement (.add i g1 g2) :=
  encodedLength_two rfl (by have := gen_len_le g2; simp; omega)
theorem EncodedLength.cmp (i : Size) (g1 : Gen) (g2 : Gen) : EncodedLength.Statement (.cmp i g1 g2) :=
  encodedLength_two rfl (by have := gen_len_le g2; simp; omega)
theorem EncodedLength.bic (i : Size) (g1 : Gen) (g2 : Gen) : EncodedLength.Statement (.bic i g1 g2) :=
  encodedLength_two rfl (by have := gen_len_le g2; simp; omega)
theorem EncodedLength.addc (i : Size) (g1 : Gen) (g2 : Gen) : EncodedLength.Statement (.addc i g1 g2) :=
  encodedLength_two rfl (by have := gen_len_le g2; simp; omega)
theorem EncodedLength.mov (i : Size) (g1 : Gen) (g2 : Gen) : EncodedLength.Statement (.mov i g1 g2) :=
  encodedLength_two rfl (by have := gen_len_le g2; simp; omega)
theorem EncodedLength.orI (i : Size) (g1 : Gen) (g2 : Gen) : EncodedLength.Statement (.orI i g1 g2) :=
  encodedLength_two rfl (by have := gen_len_le g2; simp; omega)
theorem EncodedLength.sub (i : Size) (g1 : Gen) (g2 : Gen) : EncodedLength.Statement (.sub i g1 g2) :=
  encodedLength_two rfl (by have := gen_len_le g2; simp; omega)
theorem EncodedLength.addr (i : Size) (g1 : Gen) (g2 : Gen) : EncodedLength.Statement (.addr i g1 g2) :=
  encodedLength_two rfl (by have := gen_len_le g2; simp; omega)
theorem EncodedLength.andI (i : Size) (g1 : Gen) (g2 : Gen) : EncodedLength.Statement (.andI i g1 g2) :=
  encodedLength_two rfl (by have := gen_len_le g2; simp; omega)
theorem EncodedLength.subc (i : Size) (g1 : Gen) (g2 : Gen) : EncodedLength.Statement (.subc i g1 g2) :=
  encodedLength_two rfl (by have := gen_len_le g2; simp; omega)
theorem EncodedLength.tbit (i : Size) (g1 : Gen) (g2 : Gen) : EncodedLength.Statement (.tbit i g1 g2) :=
  encodedLength_two rfl (by have := gen_len_le g2; simp; omega)
theorem EncodedLength.xorI (i : Size) (g1 : Gen) (g2 : Gen) : EncodedLength.Statement (.xorI i g1 g2) :=
  encodedLength_two rfl (by have := gen_len_le g2; simp; omega)

end Sys2Proof.Laws
end

