-- ==== Sys2Proof/Laws/Shapes.lean ====
section
/-!
SUPPORT. The shapes that RegisterCPU's formats share: for each, what it answers when its operands resolve, and everything it
can answer.
-/
namespace Sys2Proof.Laws
open Sys2Proof Sys2Proof.Machine

variable {c t : RegCpu} {n n1 n2 : Size} {g g1 g2 : Gen} {o o1 o2 : Opnd} {d : Dest} {len : Nat}

@[simp] theorem sized_ne {i : Size} (h : i ≠ .undef) : sized i = true := by simp [sized, h]

/-! ## With resolved operands -/

theorem readOne_ok (h : c.resolve g = .ok o) (k : RegCpu → DWord → RegCpu) :
    c.readOne n g k = .ok (k (c.afterSource n o) (c.srcValue n o)) := by
  simp [RegCpu.readOne, h]

theorem rmwOne_ok (h : c.resolve g = .ok o) (hd : asDest o = .ok d) (f : Word → DWord → DWord × Word) :
    c.rmwOne n g len f = .ok (((c.destUpdate n d (f c.psr (c.destValue n d)).1).withPsr
      (f c.psr (c.destValue n d)).2).advance len) := by
  simp [RegCpu.rmwOne, h, hd]

theorem writeOne_ok (h : c.resolve g = .ok o) (hd : asDest o = .ok d) (v : DWord) :
    c.writeOne n g len v = .ok ((c.destWrite n d v).advance len) := by
  simp [RegCpu.writeOne, h, hd]

theorem addrOne_ok {ea : DWord} (h : c.resolve g = .ok o) (ha : c.addrOf o = .ok ea) (k : DWord → RegCpu) :
    c.addrOne g k = .ok (k ea) := by
  simp [RegCpu.addrOne, h, ha]

theorem readTwo_ok (h1 : c.resolve g1 = .ok o1) (h2 : c.resolve g2 = .ok o2) (f : Word → DWord → DWord → Word) :
    c.readTwo n g1 g2 len f = .ok ((((c.afterSource n o1).afterSource n o2).withPsr
      (f c.psr (c.srcValue n o1) ((c.afterSource n o1).srcValue n o2))).advance len) := by
  simp [RegCpu.readTwo, h1, h2]

theorem writeTwo_ok (h1 : c.resolve g1 = .ok o1) (h2 : c.resolve g2 = .ok o2) (hd : asDest o2 = .ok d)
    (f : Word → DWord → DWord × Word) :
    c.writeTwo n1 n2 g1 g2 len f = .ok ((((c.afterSource n1 o1).destWrite n2 d (f c.psr (c.srcValue n1 o1)).1).withPsr
      (f c.psr (c.srcValue n1 o1)).2).advance len) := by
  simp [RegCpu.writeTwo, h1, h2, hd]

theorem rmwTwo_ok (h1 : c.resolve g1 = .ok o1) (h2 : c.resolve g2 = .ok o2) (hd : asDest o2 = .ok d)
    (f : Word → DWord → DWord → DWord × Word) :
    c.rmwTwo n1 n2 g1 g2 len f =
      .ok ((((c.afterSource n1 o1).destUpdate n2 d
        (f c.psr (c.srcValue n1 o1) ((c.afterSource n1 o1).destValue n2 d)).1).withPsr
        (f c.psr (c.srcValue n1 o1) ((c.afterSource n1 o1).destValue n2 d)).2).advance len) := by
  simp [RegCpu.rmwTwo, h1, h2, hd]

theorem divTwo_ok (h1 : c.resolve g1 = .ok o1) (h2 : c.resolve g2 = .ok o2) (hd : asDest o2 = .ok d)
    (hv : signedOf n (c.srcValue n o1) ≠ 0) (f : Int → Int → Int) :
    c.divTwo n g1 g2 f = .ok (((c.afterSource n o1).destUpdate n d
      (narrow n (f (signedOf n ((c.afterSource n o1).destValue n d)) (signedOf n (c.srcValue n o1))))).advance
      (lenTwo 3 g1 g2)) := by
  simp [RegCpu.divTwo, h1, h2, hd, hv]

/-- A zero divisor is the divide-by-zero trap (R401, R427). -/
theorem divTwo_zero (h1 : c.resolve g1 = .ok o1) (h2 : c.resolve g2 = .ok o2) (hd : asDest o2 = .ok d)
    (hv : signedOf n (c.srcValue n o1) = 0) (f : Int → Int → Int) :
    c.divTwo n g1 g2 f = .error (.trap .dvz) := by
  simp [RegCpu.divTwo, h1, h2, hd, hv]

theorem bitTwo_ok (h1 : c.resolve g1 = .ok o1) (h2 : c.resolve g2 = .ok o2) (hd : asDest o2 = .ok d)
    (f : RegCpu → BitPlace → Bool → RegCpu) :
    c.bitTwo n g1 g2 len f =
      .ok (((f (c.afterSource n o1) ((c.afterSource n o1).bitLocate (signedOf n (c.srcValue n o1)) d)
        ((c.afterSource n o1).bitAt ((c.afterSource n o1).bitLocate (signedOf n (c.srcValue n o1)) d))).withPsr
        (setPsrBit c.psr bitF ((c.afterSource n o1).bitAt
          ((c.afterSource n o1).bitLocate (signedOf n (c.srcValue n o1)) d)))).advance len) := by
  simp [RegCpu.bitTwo, h1, h2, hd]

/-! ## Everything a shape can answer -/

theorem readOne_inv {k : RegCpu → DWord → RegCpu} (h : c.readOne n g k = .ok t) :
    ∃ o, c.resolve g = .ok o ∧ t = k (c.afterSource n o) (c.srcValue n o) := by
  obtain ⟨o, ho, h⟩ := bind_eq_ok h
  exact ⟨o, ho, by simpa using h.symm⟩

theorem rmwOne_inv {f : Word → DWord → DWord × Word} (h : c.rmwOne n g len f = .ok t) :
    ∃ o d v, c.resolve g = .ok o ∧ asDest o = .ok d ∧ v = f c.psr (c.destValue n d) ∧
      t = ((c.destUpdate n d v.1).withPsr v.2).advance len := by
  obtain ⟨o, ho, h⟩ := bind_eq_ok h
  obtain ⟨d, hd, h⟩ := bind_eq_ok h
  exact ⟨o, d, _, ho, hd, rfl, by simpa using h.symm⟩

theorem writeOne_inv {v : DWord} (h : c.writeOne n g len v = .ok t) :
    ∃ o d, c.resolve g = .ok o ∧ asDest o = .ok d ∧ t = (c.destWrite n d v).advance len := by
  obtain ⟨o, ho, h⟩ := bind_eq_ok h
  obtain ⟨d, hd, h⟩ := bind_eq_ok h
  exact ⟨o, d, ho, hd, by simpa using h.symm⟩

theorem addrOne_inv {k : DWord → RegCpu} (h : c.addrOne g k = .ok t) :
    ∃ o ea, c.resolve g = .ok o ∧ c.addrOf o = .ok ea ∧ t = k ea := by
  obtain ⟨o, ho, h⟩ := bind_eq_ok h
  obtain ⟨ea, ha, h⟩ := bind_eq_ok h
  exact ⟨o, ea, ho, ha, by simpa using h.symm⟩

theorem readTwo_inv {f : Word → DWord → DWord → Word} (h : c.readTwo n g1 g2 len f = .ok t) :
    ∃ o1 o2 p, c.resolve g1 = .ok o1 ∧ c.resolve g2 = .ok o2 ∧
      p = f c.psr (c.srcValue n o1) ((c.afterSource n o1).srcValue n o2) ∧
      t = (((c.afterSource n o1).afterSource n o2).withPsr p).advance len := by
  obtain ⟨o1, h1, h⟩ := bind_eq_ok h
  obtain ⟨o2, h2, h⟩ := bind_eq_ok h
  exact ⟨o1, o2, _, h1, h2, rfl, by simpa using h.symm⟩

theorem writeTwo_inv {f : Word → DWord → DWord × Word} (h : c.writeTwo n1 n2 g1 g2 len f = .ok t) :
    ∃ o1 o2 d v, c.resolve g1 = .ok o1 ∧ c.resolve g2 = .ok o2 ∧ asDest o2 = .ok d ∧ v = f c.psr (c.srcValue n1 o1) ∧
      t = (((c.afterSource n1 o1).destWrite n2 d v.1).withPsr v.2).advance len := by
  obtain ⟨o1, h1, h⟩ := bind_eq_ok h
  obtain ⟨o2, h2, h⟩ := bind_eq_ok h
  obtain ⟨d, hd, h⟩ := bind_eq_ok h
  exact ⟨o1, o2, d, _, h1, h2, hd, rfl, by simpa using h.symm⟩

theorem rmwTwo_inv {f : Word → DWord → DWord → DWord × Word} (h : c.rmwTwo n1 n2 g1 g2 len f = .ok t) :
    ∃ o1 o2 d v, c.resolve g1 = .ok o1 ∧ c.resolve g2 = .ok o2 ∧ asDest o2 = .ok d ∧
      v = f c.psr (c.srcValue n1 o1) ((c.afterSource n1 o1).destValue n2 d) ∧
      t = (((c.afterSource n1 o1).destUpdate n2 d v.1).withPsr v.2).advance len := by
  obtain ⟨o1, h1, h⟩ := bind_eq_ok h
  obtain ⟨o2, h2, h⟩ := bind_eq_ok h
  obtain ⟨d, hd, h⟩ := bind_eq_ok h
  exact ⟨o1, o2, d, _, h1, h2, hd, rfl, by simpa using h.symm⟩

theorem divTwo_inv {f : Int → Int → Int} (h : c.divTwo n g1 g2 f = .ok t) :
    ∃ o1 o2 d v, c.resolve g1 = .ok o1 ∧ c.resolve g2 = .ok o2 ∧ asDest o2 = .ok d ∧
      signedOf n (c.srcValue n o1) ≠ 0 ∧
      v = narrow n (f (signedOf n ((c.afterSource n o1).destValue n d)) (signedOf n (c.srcValue n o1))) ∧
      t = ((c.afterSource n o1).destUpdate n d v).advance (lenTwo 3 g1 g2) := by
  obtain ⟨o1, h1, h⟩ := bind_eq_ok h
  obtain ⟨o2, h2, h⟩ := bind_eq_ok h
  obtain ⟨d, hd, h⟩ := bind_eq_ok h
  simp only at h
  split at h
  · cases h
  · next hv => exact ⟨o1, o2, d, _, h1, h2, hd, hv, rfl, by simpa using h.symm⟩

theorem bitTwo_inv {f : RegCpu → BitPlace → Bool → RegCpu} (h : c.bitTwo n g1 g2 len f = .ok t) :
    ∃ o1 o2 d p, c.resolve g1 = .ok o1 ∧ c.resolve g2 = .ok o2 ∧ asDest o2 = .ok d ∧
      p = (c.afterSource n o1).bitLocate (signedOf n (c.srcValue n o1)) d ∧
      t = ((f (c.afterSource n o1) p ((c.afterSource n o1).bitAt p)).withPsr
        (setPsrBit c.psr bitF ((c.afterSource n o1).bitAt p))).advance len := by
  obtain ⟨o1, h1, h⟩ := bind_eq_ok h
  obtain ⟨o2, h2, h⟩ := bind_eq_ok h
  obtain ⟨d, hd, h⟩ := bind_eq_ok h
  exact ⟨o1, o2, d, _, h1, h2, hd, rfl, by simpa using h.symm⟩

end Sys2Proof.Laws
end

