-- ==== Sys2Proof/Laws/Step.lean ====
section
/-!
SUPPORT. The check against `REGCPU_UNIMPLEMENTED`, said once, and the costs of a step: proofs about `regStep` and `runFor`
cite these.
-/
namespace Sys2Proof.Laws
open Sys2Proof Sys2Proof.Machine

/-- What the check answers (R424 step 1). -/
theorem missing_eq_some (s : State) (i : Instr) (m : RegMnemonic) :
    s.missing i = some m ↔ mnemonicOf i = some m ∧ m ∈ s.par.unimplemented := by
  simp [State.missing, Option.filter_eq_some_iff]

@[simp] theorem missing_of_none {s : State} {i : Instr} (h : mnemonicOf i = none) : s.missing i = none := by
  simp [State.missing, h]

theorem missing_of_not_mem {s : State} {i : Instr} {m : RegMnemonic} (h : mnemonicOf i = some m)
    (hm : m ∉ s.par.unimplemented) : s.missing i = none := by simp [State.missing, h, Option.filter, hm]

/-- The default set holds mnemonics whose own meaning already ends in the same fault (R10, R377). -/
theorem exec_of_default_mem {i : Instr} {m : RegMnemonic} (h : mnemonicOf i = some m)
    (hm : m ∈ Config.defaults.unimplemented) (s : State) : exec i s = .fault (.notImplementedOpcode m) := by
  simp only [Config.defaults, List.mem_cons, List.not_mem_nil, or_false] at hm
  rcases hm with rfl | rfl | rfl | rfl | rfl | rfl | rfl | rfl <;> cases i <;>
    first
      | rfl
      | (simp only [mnemonicOf, named] at h; split at h <;> simp at h)
      | (simp [mnemonicOf] at h)

/-- What a RegisterCPU step does with the instruction it decodes. -/
theorem regStep_of_decoded {s : State} {i : Instr} {rest : List Byte} (h : decodeBytes s.reg.fetched = .ok (i, rest))
    (hm : s.missing i = none) : regStep s = exec i s := by simp [regStep, h, hm]

/-- A step takes one or two cycles from the budget, so a run for `n` cycles has at most `n` steps (R466). -/
theorem stepCost_bounds (core : CoreId) (s : State) : 1 ≤ stepCost core s ∧ stepCost core s ≤ 2 := by
  cases core
  · simp only [stepCost, stackStepCost, stackCost]; split <;> decide
  · simp [stepCost, regStepCost]

end Sys2Proof.Laws
end

