-- ==== Sys2Proof/Tests/Slice0.lean ====
section
/-!
SUPPORT. Tests: what WellFormed refuses, the decoding of a word of every constructor, one step of every instruction, and
for each obligation with hypotheses a state and operands that meet them. Expected results come from the spec: the words
are put together from the masks and fields of spec/opcode_table.json, the steps are vectors of spec/95_test_vectors.md and
spec/96_test_vectors_regcpu.md (the name of the vector stands above each) or are worked out from the rule named.
-/
namespace Sys2Proof.Tests
open Sys2Proof Sys2Proof.Machine

/-! ## Well-formedness: one ill-formed term for each check -/

/-- R131: size code 10 does not reach formats 2, 3, 4, nor the unimplemented mnemonics. -/
theorem test_wf_size :
    wellFormed (.add .undef (.reg 0) (.reg 1)) = false ∧ wellFormed (.jump .undef (.reg 0)) = false ∧
    wellFormed (.addq 1 .undef (.reg 0)) = false ∧ wellFormed (.undefinedF3 0 1 .undef) = false ∧
    wellFormed (.movm .undef (.reg 0) (.reg 1)) = false := by decide

/-- R261: an immediate has the operand's size. -/
theorem test_wf_immediate :
    wellFormed (.add .b (.imm (.w 1)) (.reg 1)) = false ∧ wellFormed (.add .w (.reg 1) (.imm (.d 1))) = false ∧
    wellFormed (.rot .d (.imm (.d 1)) (.reg 1)) = false ∧ wellFormed (.movxbw .b (.reg 1) (.imm (.b 1))) = false ∧
    wellFormed (.movzid .b (.imm (.b 1)) (.imm (.b 1))) = false ∧ wellFormed (.addq 1 .w (.imm (.b 1))) = false := by decide

/-- R133, R137: the patterns of the two undefined rows. -/
theorem test_wf_undefined :
    wellFormed (.undefinedB10 (.byte 0x0E)) = false ∧ wellFormed (.undefinedB10 (.byte 0x0A)) = false ∧
    wellFormed (.undefinedB10 (.fmt5 0x0004)) = false ∧ wellFormed (.undefinedB10 (.fmt6 0x0000)) = false ∧
    wellFormed (.undefinedB10 (.fmt7 0x0003)) = false ∧ wellFormed (.undefinedF3 0 2 .b) = false := by decide

/-! ## Decoding: a word of every constructor -/

/-- The decoder's answer, without the reason of a refusal. -/
def decoded (bs : List Byte) : Option (Instr × List Byte) :=
  match decodeBytes bs with
  | .ok x => some x
  | .error _ => none

theorem test_decode_stack_call_branch :
    decodeWord 0x2345#16 = .sCall 0x2345 ∧
    decodeWord 0x9C55#16 = .sIf 0xC55 ∧
    decodeWord 0xAE4F#16 = .sLoop 0xE4F ∧
    decodeWord 0xB450#16 = .sElse 0x450 := by
  and_intros <;> decide

theorem test_decode_stack_alu :
    decodeWord 0x8081#16 = .aluT ⟨.nc, false, false, false, false, false, .sign⟩ ∧
    decodeWord 0x8233#16 = .aluAnd ⟨.n, false, true, true, false, false, .right⟩ ∧
    decodeWord 0x84BB#16 = .aluSub ⟨.nc, false, true, true, true, false, .right⟩ ∧
    decodeWord 0x8767#16 = .aluOr ⟨.md, true, true, false, false, true, .right⟩ ∧
    decodeWord 0x88CF#16 = .aluAdd ⟨.nc, true, false, false, true, true, .right⟩ ∧
    decodeWord 0x8ABE#16 = .aluXor ⟨.nc, false, true, true, true, true, .left⟩ ∧
    decodeWord 0x8C15#16 = .aluSuby ⟨.n, false, false, true, false, true, .sign⟩ ∧
    decodeWord 0x8E1B#16 = .aluY ⟨.n, false, false, true, true, false, .right⟩ := by
  and_intros <;> decide

theorem test_decode_stack_lli :
    decodeWord 0xC679#16 = .lfetch .or true true 0x19 ∧
    decodeWord 0xC6FF#16 = .ifetch .or true true true 15 ∧
    decodeWord 0xCB0C#16 = .lits .xor false false 0x0C ∧
    decodeWord 0xCF95#16 = .litl .y false false 0x15 ∧
    decodeWord 0xD074#16 = .lstore .t true true 0x14 ∧
    decodeWord 0xD8E5#16 = .istore .add true true 5 ∧
    decodeWord 0xDCF3#16 = .istoreSa .suby true true 3 ∧
    decodeWord 0xD75B#16 = .iswap .or true false true 11 ∧
    decodeWord 0xD5BE#16 = .lliReserved .sub false true 0x1E := by
  and_intros <;> decide

theorem test_decode_stack_memory :
    decodeWord 0xE22B#16 = .mfetch0 .and false true 0x0B ∧
    decodeWord 0xE083#16 = .mfetch1 .t false false 0x03 ∧
    decodeWord 0xE732#16 = .mfetch2 .or false true 0x12 ∧
    decodeWord 0xEDC4#16 = .mfetchx .suby true false 0x04 ∧
    decodeWord 0xF824#16 = .mstore0 .add false true 0x04 ∧
    decodeWord 0xF4A0#16 = .mstore1 .sub false true 0x00 ∧
    decodeWord 0xF962#16 = .mstore2 .add true true 0x02 ∧
    decodeWord 0xFBF6#16 = .mstorex .xor true true 0x16 := by
  and_intros <;> decide

theorem test_decode_fmt0 :
    decoded [0x0A, 0x92, 0x34] = some (.beq (.d2 0x1234), []) ∧
    decoded [0x1A, 0xC0, 0x01, 0x02, 0x03] = some (.bne (.d4 0x10203), []) ∧
    decoded [0x2A, 0x7E] = some (.bcs (.d1 0x7E), []) ∧
    decoded [0x3A, 0x7E] = some (.bcc (.d1 0x7E), []) ∧
    decoded [0x4A, 0xC0, 0x01, 0x02, 0x03] = some (.bhi (.d4 0x10203), []) ∧
    decoded [0x5A, 0x7E] = some (.bls (.d1 0x7E), []) ∧
    decoded [0x6A, 0x92, 0x34] = some (.bgt (.d2 0x1234), []) ∧
    decoded [0x7A, 0xC0, 0x01, 0x02, 0x03] = some (.ble (.d4 0x10203), []) ∧
    decoded [0x8A, 0x92, 0x34] = some (.bfs (.d2 0x1234), []) ∧
    decoded [0x9A, 0x7E] = some (.bfc (.d1 0x7E), []) ∧
    decoded [0xAA, 0x92, 0x34] = some (.blo (.d2 0x1234), []) ∧
    decoded [0xBA, 0x7E] = some (.bhs (.d1 0x7E), []) ∧
    decoded [0xCA, 0x92, 0x34] = some (.blt (.d2 0x1234), []) ∧
    decoded [0xDA, 0x92, 0x34] = some (.bge (.d2 0x1234), []) ∧
    decoded [0xEA, 0x7E] = some (.br (.d1 0x7E), []) ∧
    decoded [0xFA, 0x92, 0x34] = some (.bn (.d2 0x1234), []) := by
  and_intros <;> decide

theorem test_decode_fmt1 :
    decoded [0x02, 0xC0, 0x01, 0x02, 0x03] = some (.bsr (.d4 0x10203), []) ∧
    decoded [0x12, 0x7E] = some (.ret (.d1 0x7E), []) ∧
    decoded [0x22, 0x92, 0x34] = some (.cxp (.d2 0x1234), []) ∧
    decoded [0x32, 0x7E] = some (.rxp (.d1 0x7E), []) ∧
    decoded [0x42, 0xC0, 0x01, 0x02, 0x03] = some (.rett (.d4 0x10203), []) ∧
    decoded [0x52] = some (.reti, []) ∧
    decoded [0x62, 0x6A] = some (.save 0x6A, []) ∧
    decoded [0x72, 0x37] = some (.restore 0x37, []) ∧
    decoded [0x82, 0x9C, 0x92, 0x34] = some (.enter 0x9C (.d2 0x1234), []) ∧
    decoded [0x92, 0xDD] = some (.exitI 0xDD, []) ∧
    decoded [0xA2] = some (.nop, []) ∧
    decoded [0xB2] = some (.wait, []) ∧
    decoded [0xC2] = some (.dia, []) ∧
    decoded [0xD2] = some (.flag, []) ∧
    decoded [0xE2] = some (.svc, []) ∧
    decoded [0xF2] = some (.bpt, []) := by
  and_intros <;> decide

theorem test_decode_fmt5 :
    decoded [0x0E, 0x81, 0x05] = some (.movs 0xB .w, []) ∧
    decoded [0x0E, 0x07, 0x00] = some (.cmps 0x0 .d, []) ∧
    decoded [0x0E, 0x8B, 0x02] = some (.setcfg 0x5 .d, []) ∧
    decoded [0x0E, 0x8C, 0x01] = some (.skps 0x3 .b, []) := by
  and_intros <;> decide

theorem test_decode_fmt6 :
    decoded [0x4E, 0x01, 0xA5, 0x11, 0x11, 0x22] = some (.rot .w (.imm (.b 0x11)) (.imm (.w 0x1122)), []) ∧
    decoded [0x4E, 0xC7, 0xA5, 0x11] = some (.ash .d (.imm (.b 0x11)) .tos, []) ∧
    decoded [0x4E, 0x49, 0x75, 0x15, 0xC1, 0x02, 0x03, 0x04] = some (.cbit .w (.rel 6 (.d1 21)) (.abs (.d4 0x1020304)),
      []) ∧
    decoded [0x4E, 0x8F, 0xBC, 0x05, 0x7C] = some (.cbiti .d .tos (.memRel .sb (.d1 5) (.d1 124)), []) ∧
    decoded [0x4E, 0x94, 0xB7, 0x02, 0x81, 0x23] = some (.lsh .b (.ext (.d1 2) (.d2 0x123)) (.scaled 2), []) ∧
    decoded [0x4E, 0x98, 0xB4, 0x02, 0x81, 0x23, 0x05, 0x7C] = some (.sbit .b (.ext (.d1 2) (.d2 0x123)) (.memRel .sb
      (.d1 5) (.d1 124)), []) ∧
    decoded [0x4E, 0xDD, 0xB5, 0x02, 0x81, 0x23] = some (.sbiti .w (.ext (.d1 2) (.d2 0x123)) .tos, []) ∧
    decoded [0x4E, 0x61, 0xF6, 0x09] = some (.neg .w (.scaled 2) (.space .sp (.d1 9)), []) ∧
    decoded [0x4E, 0x67, 0xAF, 0xC1, 0x02, 0x03, 0x04] = some (.notI .d (.abs (.d4 0x1020304)) (.scaled 1), []) ∧
    decoded [0x4E, 0x6F, 0xAD, 0xC1, 0x02, 0x03, 0x04, 0xC1, 0x02, 0x03, 0x04] = some (.subp .d (.abs (.d4 0x1020304))
      (.abs (.d4 0x1020304)), []) ∧
    decoded [0x4E, 0x31, 0xA5, 0x11, 0x22, 0x11, 0x22] = some (.absI .w (.imm (.w 0x1122)) (.imm (.w 0x1122)), []) ∧
    decoded [0x4E, 0x74, 0xBE, 0x09] = some (.com .b .tos (.space .sp (.d1 9)), []) ∧
    decoded [0x4E, 0x39, 0xAE, 0xC1, 0x02, 0x03, 0x04, 0x09] = some (.ibit .w (.abs (.d4 0x1020304)) (.space .fp (.d1
      9)), []) ∧
    decoded [0x4E, 0x3D, 0xBD, 0x11, 0x22] = some (.addp .w .tos (.imm (.w 0x1122)), []) := by
  and_intros <;> decide

theorem test_decode_fmt7 :
    decoded [0xCE, 0xC0, 0x75, 0x05] = some (.movm .b (.rel 6 (.d1 5)) .tos, []) ∧
    decoded [0xCE, 0x45, 0x88, 0x05, 0x7C] = some (.cmpm .w (.memRel .sp (.d1 5) (.d1 124)) (.reg 1), []) ∧
    decoded [0xCE, 0xCB, 0xBD] = some (.inss .d .tos .tos, []) ∧
    decoded [0xCE, 0x4D, 0xF8] = some (.exts .w (.scaled 3) (.reg 1), []) ∧
    decoded [0xCE, 0x10, 0xA9, 0xC1, 0x02, 0x03, 0x04] = some (.movxbw .b (.abs (.d4 0x1020304)) (.reg 4), []) ∧
    decoded [0xCE, 0x14, 0xAD, 0xC1, 0x02, 0x03, 0x04, 0x11, 0x22] = some (.movzbw .b (.abs (.d4 0x1020304)) (.imm (.w
      0x1122)), []) ∧
    decoded [0xCE, 0x18, 0x3E, 0x09] = some (.movzid .b (.reg 7) (.space .fp (.d1 9)), []) ∧
    decoded [0xCE, 0xDD, 0xD6, 0x09, 0x09] = some (.movxid .w (.space .sb (.d1 9)) (.space .pc (.d1 9)), []) ∧
    decoded [0xCE, 0x61, 0xA5, 0x11, 0x22, 0xC1, 0x02, 0x03, 0x04] = some (.mul .w (.imm (.w 0x1122)) (.abs (.d4
      0x1020304)), []) ∧
    decoded [0xCE, 0x25, 0xA1, 0x11, 0x22] = some (.mei .w (.imm (.w 0x1122)) (.reg 4), []) ∧
    decoded [0xCE, 0xEF, 0xAD, 0xC1, 0x02, 0x03, 0x04] = some (.dei .d (.abs (.d4 0x1020304)) .tos, []) ∧
    decoded [0xCE, 0x30, 0xFF] = some (.quo .b (.scaled 3) (.scaled 0), []) ∧
    decoded [0xCE, 0x37, 0xF7] = some (.rem .d (.scaled 2) (.scaled 0), []) ∧
    decoded [0xCE, 0x38, 0xB7, 0x02, 0x81, 0x23] = some (.modI .b (.ext (.d1 2) (.d2 0x123)) (.scaled 0), []) ∧
    decoded [0xCE, 0x7C, 0xB5, 0x02, 0x81, 0x23, 0xC1, 0x02, 0x03, 0x04] = some (.divI .b (.ext (.d1 2) (.d2 0x123))
      (.abs (.d4 0x1020304)), []) := by
  and_intros <;> decide

theorem test_decode_undefined :
    decoded [0x46] = some (.undefinedB10 (.byte 0x46), []) ∧
    decoded [0x0E, 0x10, 0x00] = some (.undefinedB10 (.fmt5 0x0010), []) ∧
    decoded [0x4E, 0x13, 0x08] = some (.undefinedB10 (.fmt6 0x0813), []) ∧
    decoded [0xCE, 0x2A, 0x08] = some (.undefinedB10 (.fmt7 0x082A), []) ∧
    decoded [0x7D, 0xAC] = some (.undefinedF3 21 8 .w, []) := by
  and_intros <;> decide

theorem test_decode_fmt3 :
    decoded [0x7D, 0xB0, 0x02, 0x81, 0x23] = some (.cxpd .w (.ext (.d1 2) (.d2 0x123)), []) ∧
    decoded [0x7F, 0xA9, 0xC1, 0x02, 0x03, 0x04] = some (.bicpsr .d (.abs (.d4 0x1020304)), []) ∧
    decoded [0x7C, 0xA2, 0x11] = some (.jump .b (.imm (.b 0x11)), []) ∧
    decoded [0x7F, 0xA3, 0x11, 0x22, 0x33, 0x44] = some (.bispsr .d (.imm (.d 0x11223344)), []) ∧
    decoded [0x7C, 0xA5, 0x11] = some (.adjsp .b (.imm (.b 0x11)), []) ∧
    decoded [0x7C, 0xBE] = some (.jsr .b .tos, []) ∧
    decoded [0x7C, 0xE7] = some (.caseI .b (.scaled 0), []) := by
  and_intros <;> decide

theorem test_decode_fmt2 :
    decoded [0x8C, 0x90, 0x05, 0x7C] = some (.addq 0x1 .b (.memRel .sb (.d1 5) (.d1 124)), []) ∧
    decoded [0x9F, 0xF3] = some (.cmpq 0x7 .d (.scaled 2), []) ∧
    decoded [0xAC, 0x2A] = some (.spr 0x5 .b (.reg 5), []) ∧
    decoded [0x3C, 0xB6, 0x02, 0x81, 0x23] = some (.scond .lt .b (.ext (.d1 2) (.d2 0x123)), []) ∧
    decoded [0xCC, 0x09, 0xC0, 0x01, 0x02, 0x03] = some (.acb 0x3 .b (.reg 1) (.d4 0x10203), []) ∧
    decoded [0x5F, 0x22] = some (.movq 0x4 .d (.reg 4), []) ∧
    decoded [0x6C, 0x85, 0x05, 0x7C] = some (.lpr 0xA .b (.memRel .fp (.d1 5) (.d1 124)), []) := by
  and_intros <;> decide

theorem test_decode_fmt4 :
    decoded [0x81, 0xE5, 0x02, 0x81, 0x23] = some (.add .w (.scaled 0) (.ext (.d1 2) (.d2 0x123)), []) ∧
    decoded [0xC4, 0xAD, 0xC1, 0x02, 0x03, 0x04] = some (.cmp .b (.abs (.d4 0x1020304)) .tos, []) ∧
    decoded [0x8B, 0xCD, 0x09, 0x02, 0x81, 0x23] = some (.bic .d (.space .sp (.d1 9)) (.ext (.d1 2) (.d2 0x123)), []) ∧
    decoded [0x91, 0xAD, 0xC1, 0x02, 0x03, 0x04, 0x02, 0x81, 0x23] = some (.addc .w (.abs (.d4 0x1020304)) (.ext (.d1 2)
      (.d2 0x123)), []) ∧
    decoded [0x94, 0xBE, 0x09] = some (.mov .b .tos (.space .sb (.d1 9)), []) ∧
    decoded [0x98, 0xA8, 0xC1, 0x02, 0x03, 0x04] = some (.orI .b (.abs (.d4 0x1020304)) (.reg 2), []) ∧
    decoded [0x23, 0xA5, 0x11, 0x22, 0x33, 0x44, 0x11, 0x22, 0x33, 0x44] = some (.sub .d (.imm (.d 0x11223344)) (.imm (.d
      0x11223344)), []) ∧
    decoded [0xA7, 0xC4, 0x09, 0x05, 0x7C] = some (.addr .d (.space .fp (.d1 9)) (.memRel .sb (.d1 5) (.d1 124)), []) ∧
    decoded [0x68, 0x2D, 0xC1, 0x02, 0x03, 0x04] = some (.andI .b (.reg 5) (.abs (.d4 0x1020304)), []) ∧
    decoded [0xB1, 0xB2, 0x02, 0x81, 0x23, 0x28] = some (.subc .w (.ext (.d1 2) (.d2 0x123)) (.rel 2 (.d1 40)), []) ∧
    decoded [0xB4, 0xAD, 0xC1, 0x02, 0x03, 0x04, 0x02, 0x81, 0x23] = some (.tbit .b (.abs (.d4 0x1020304)) (.ext (.d1 2)
      (.d2 0x123)), []) ∧
    decoded [0x38, 0xB7, 0x02, 0x81, 0x23] = some (.xorI .b (.ext (.d1 2) (.d2 0x123)) (.scaled 0), []) := by
  and_intros <;> decide

/-- A byte list that ends inside an instruction has none. -/
theorem test_decode_truncated :
    decoded [] = none ∧ decoded [0xEA] = none ∧ decoded [0xEA, 0x80] = none ∧ decoded [0x17, 0xA0, 1, 2, 3] = none := by
  decide

/-- The host's table words: the bits above the row's are 0, and the two cores' rows are told apart (log 9). -/
theorem test_decode_table :
    decodeTableWord 16 0x8800 = some (.aluAdd ⟨.n, false, false, false, false, false, .none⟩) ∧
    decodeTableWord 16 0x0803 = some (.add .d (.reg 1) (.reg 0)) ∧ decodeTableWord 16 0x1232 = some (.sCall 0x1232) ∧
    decodeTableWord 8 0xEA = some (.br (.d1 0)) ∧ decodeTableWord 24 0x0803CE = some (.movm .d (.reg 1) (.reg 0)) := by
  and_intros <;> decide

/-! ## One step -/

/-- A StackCPU about to run: its program words, and the registers set by `f`. -/
def stackState (prog : Cells 16) (f : StackCpu → StackCpu) : State :=
  { State.reset with stack := f { State.reset.stack with prog := prog } }

/-- A RegisterCPU about to run at 2000: its memory, and the registers set by `f`. -/
def regState (mem : Cells 8) (f : RegCpu → RegCpu) : State :=
  { State.reset with reg := f { State.reset.reg with pc := 0x2000, mem := mem }, turn := .reg }

/-- A StackCPU whose next word, `T` with nothing else, changes nothing but `pc`. -/
def idle : State := stackState [(0x1000, 0x8000)] id

/-- The step answers a next state. -/
def goes (s : State) : Bool :=
  match step s with
  | .next _ => true
  | .fault _ => false
  | .refused _ => false

theorem next_of_goes {s : State} (h : goes s = true) : ∃ t, step s = .next t := by
  unfold goes at h
  split at h
  · exact ⟨_, ‹_›⟩
  · cases h
  · cases h

/-- What is seen of StackCPU after one step; none when the step stops. -/
def stackLook (prog : Cells 16) (f : StackCpu → StackCpu) (look : StackCpu → List Nat) : Option (List Nat) :=
  match step (stackState prog f) with
  | .next t => some (look t.stack)
  | .fault _ => none
  | .refused _ => none

/-- What is seen of RegisterCPU after one step; none when the step stops. -/
def regLook (mem : Cells 8) (f : RegCpu → RegCpu) (look : RegCpu → List Nat) : Option (List Nat) :=
  match step (regState mem f) with
  | .next t => some (look t.reg)
  | .fault _ => none
  | .refused _ => none

/-- A RegisterCPU about to run with another `REGCPU_UNIMPLEMENTED`. -/
def missingState (mem : Cells 8) (set : List RegMnemonic) : State :=
  { regState mem id with par := { Config.defaults with unimplemented := set } }

/-- The fault of a step. -/
def faultOf (s : State) : Option Fault :=
  match step s with
  | .next _ => none
  | .fault f => some f
  | .refused _ => none

/-- The refusal of a step. -/
def refusalOf (s : State) : Option Refusal :=
  match step s with
  | .next _ => none
  | .fault _ => none
  | .refused r => some r

/-- Vector S2.c. -/
theorem test_step_sCall : stackLook [(0x1000, 0x1234), (0x1234, 0x8020)]
    (fun c => { c with i := 0xAAAA, j := 0x20, carry := true })
    (fun c => [c.pc.toNat, c.i.toNat, c.j.toNat, (c.rsRead 0x20).toNat]) = some [0x1234, 0x9001, 0x1F,
      0xAAAA] := by decide
/-- Vector G1.A4. -/
theorem test_step_sIf : stackLook [(0x1000, 0x9010)] (fun c => { c with n := 5, k := 0xFE, ds := [(0xFF, 9)] })
    (fun c => [c.pc.toNat, c.t.toNat, c.n.toNat, c.k.toNat]) = some [0x1010, 5, 9, 0xFF] := by decide
/-- Vector G1.A9. -/
theorem test_step_sLoop : stackLook [(0x1007, 0xA005)]
    (fun c => { c with pc := 0x1007, j := 0xFE, rs := [(0xFF, 0x9001)] })
    (fun c => [c.pc.toNat, c.i.toNat, c.j.toNat]) = some [0x1008, 0x9001, 0xFF] := by decide
/-- Vector G1.A10. -/
theorem test_step_sElse : stackLook [(0x2FFF, 0xB123)] (fun c => { c with pc := 0x2FFF })
    (fun c => [c.pc.toNat]) = some [0x3123] := by decide
/-- Vector S2.a. -/
theorem test_step_aluT : stackLook [(0x1000, 0x8050), (0x1001, 0x8E10)]
    (fun c => { c with t := 0x1111, n := 0x2222, k := 0x10, ds := [(0x11, 0x3333)] })
    (fun c => [c.pc.toNat, c.n.toNat, c.k.toNat, (c.dsRead 0x10).toNat]) = some [0x1001, 0x1111, 0xF, 0x2222] := by decide
/-- Vector S7. -/
theorem test_step_aluAnd : stackLook [(0x1000, 0x8200)] (fun c => { c with t := 0xF0, n := 0xF00 })
    (fun c => [c.pc.toNat, c.t.toNat]) = some [0x1001, 0] := by decide
/-- Vector S7b.c1. -/
theorem test_step_aluSub : stackLook [(0x1000, 0x8420)]
    (fun c => { c with t := 0xF0, n := 0xF00, i := 0x9234, j := 0xFF, rs := [(0, 0x5555)] })
    (fun c => [c.pc.toNat, c.t.toNat, c.i.toNat, c.j.toNat, c.carry.toNat]) = some [0x1234, 0xF1F0, 0x5555, 0,
      1] := by decide
/-- Vector G1.B.8600. -/
theorem test_step_aluOr : stackLook [(0x1000, 0x8600)] (fun c => { c with t := 0xF0, n := 0xF00 })
    (fun c => [c.pc.toNat, c.t.toNat]) = some [0x1001, 0xFF0] := by decide
/-- Vector G1.F3. -/
theorem test_step_aluAdd : stackLook [(0x1000, 0x8830)]
    (fun c => { c with t := 1, n := 1, i := 0x9234, j := 0xFF, k := 0xFF, ds := [(0, 7)], rs := [(0, 0xAAAA)] })
    (fun c => [c.pc.toNat, c.t.toNat, c.n.toNat, c.i.toNat, c.j.toNat, c.k.toNat]) = some [0x1234, 2, 7, 0xAAAA, 0,
      0] := by decide
/-- Vector G1.B.8A00. -/
theorem test_step_aluXor : stackLook [(0x1000, 0x8A00)] (fun c => { c with t := 0xF0, n := 0xF00 })
    (fun c => [c.pc.toNat, c.t.toNat]) = some [0x1001, 0xFF0] := by decide
/-- Vector G1.C7. -/
theorem test_step_aluSuby : stackLook [(0x1000, 0x8C10)]
    (fun c => { c with t := 0xF0, n := 0xF00, k := 0xFF, ds := [(0, 7)] })
    (fun c => [c.pc.toNat, c.t.toNat, c.n.toNat, c.k.toNat, c.carry.toNat]) = some [0x1001, 0xE10, 7, 0, 1] := by decide
/-- Vector G1.C3. -/
theorem test_step_aluY : stackLook [(0x1000, 0x8E50)] (fun c => { c with t := 0xF0, n := 0xF00 })
    (fun c => [c.pc.toNat, c.t.toNat, c.n.toNat, c.k.toNat, (c.dsRead 0).toNat]) = some [0x1001, 0xF00, 0xF0, 0xFF, 0xF00] := by decide
/-- Vector G1.H1. -/
theorem test_step_lfetch : stackLook [(5, 0xBEEF), (0x1000, 0xCE45)] (fun c => { c with t := 1, n := 2 })
    (fun c => [c.pc.toNat, c.t.toNat, c.n.toNat, c.k.toNat, (c.dsRead 0).toNat]) = some [0x1001, 0xBEEF, 1, 0xFF, 2] := by decide
/-- Vector G1.H4. -/
theorem test_step_ifetch : stackLook [(0x1000, 0xCEC1)] (fun c => { c with t := 1, n := 2, i := 7 })
    (fun c => [c.pc.toNat, c.t.toNat, c.n.toNat, c.k.toNat, (c.dsRead 0).toNat]) = some [0x1001, 7, 1, 0xFF, 2] := by decide
/-- Vector G1.H14. -/
theorem test_step_lits : stackLook [(0x1000, 0xCF47)] (fun c => { c with t := 1, n := 2 })
    (fun c => [c.pc.toNat, c.t.toNat, c.n.toNat, c.k.toNat, (c.dsRead 0).toNat]) = some [0x1001, 7, 1, 0xFF, 2] := by decide
/-- Vector G1.H20. -/
theorem test_step_litl : stackLook [(0x1000, 0xCFE0), (0x1001, 0x1234)]
    (fun c => { c with t := 1, n := 2, i := 0x9050, j := 0xFF, rs := [(0, 0x4444)] })
    (fun c => [c.pc.toNat, c.t.toNat, c.n.toNat, c.i.toNat, c.j.toNat, c.k.toNat]) = some [0x1050, 0x1234, 1, 0x4444,
      0, 0xFF] := by decide
/-- Vector G1.I1. -/
theorem test_step_lstore : stackLook [(0x1000, 0xDE45)]
    (fun c => { c with t := 0xBEEF, n := 2, k := 0xFF, ds := [(0, 9)] })
    (fun c => [c.pc.toNat, c.t.toNat, c.n.toNat, c.k.toNat, (c.progRead 5).toNat]) = some [0x1001, 2, 9, 0,
      0xBEEF] := by decide
/-- Vector G1.I7. -/
theorem test_step_istore : stackLook [(0x1000, 0xDEE2)]
    (fun c => { c with t := 0x3456, n := 2, i := 0x9050, j := 0xFF, k := 0xFF, ds := [(0, 9)], rs := [(0, 0x4444)] })
    (fun c => [c.pc.toNat, c.t.toNat, c.n.toNat, c.i.toNat, c.j.toNat, c.k.toNat]) = some [0x1050, 2, 9, 0x4444, 0,
      0] := by decide
/-- Vector G1.I14. -/
theorem test_step_istoreSa : stackLook [(0x1000, 0xDED1)]
    (fun c => { c with t := 3, n := 5, i := 0x9001, k := 0xFF, ds := [(0, 9)] })
    (fun c => [c.pc.toNat, c.t.toNat, c.n.toNat, c.i.toNat, c.j.toNat, c.k.toNat]) = some [0x1001, 5, 9, 3, 0xFF,
      0] := by decide
/-- Vector G1.I17. -/
theorem test_step_iswap : stackLook [(0x1000, 0xDF04)]
    (fun c => { c with t := 0x1111, n := 2, k := 0xFF, md := 0x2222, ds := [(0, 9)] })
    (fun c => [c.pc.toNat, c.t.toNat, c.md.toNat]) = some [0x1001, 0x2222, 0x1111] := by decide
/-- Vector G1.J7. -/
theorem test_step_mfetch0 : stackLook [(0x1000, 0xE440), (0x2000, 0x10)]
    (fun c => { c with t := 0x2000, n := 5, k := 0xFF, ds := [(0, 9)] })
    (fun c => [c.pc.toNat, c.t.toNat, c.n.toNat, c.k.toNat, c.carry.toNat]) = some [0x1001, 0xB, 9, 0, 1] := by decide
/-- Vector G1.J9. -/
theorem test_step_mfetch1 : stackLook [(0x1000, 0xE09F), (0x2000, 0xBEEF)] (fun c => { c with t := 0x2000, n := 5 })
    (fun c => [c.pc.toNat, c.t.toNat]) = some [0x1001, 0xBEEF] := by decide
/-- Vector G1.J10. -/
theorem test_step_mfetch2 : stackLook [(0x1000, 0xE100), (0x2000, 0xBEEF)] (fun c => { c with t := 0x2000, n := 5 })
    (fun c => [c.pc.toNat, c.t.toNat]) = some [0x1001, 0xBEEF] := by decide
/-- Vector G1.J1. -/
theorem test_step_mfetchx : stackLook [(0x1000, 0xE981), (0x2000, 0xBEEF)] (fun c => { c with t := 0x2000, n := 5 })
    (fun c => [c.pc.toNat, c.t.toNat, c.n.toNat, c.k.toNat, (c.dsRead 0).toNat]) = some [0x1001, 0x2001, 0xBEEF, 0xFF, 5] := by decide
/-- Vector G1.K3. -/
theorem test_step_mstore0 : stackLook [(0x1000, 0xFE40)]
    (fun c => { c with t := 0x2000, n := 0x1234, k := 0xFF, ds := [(0, 9)] })
    (fun c => [c.pc.toNat, c.t.toNat, c.n.toNat, c.k.toNat, (c.progRead 0x2000).toNat]) = some [0x1001, 0x1234, 9, 0,
      0x1234] := by decide
/-- Vector G1.K8. -/
theorem test_step_mstorex : stackLook [(0x1000, 0xF1A0)]
    (fun c => { c with
      t := 0x2000, n := 0x1234, i := 0x9050, j := 0xFF,
      k := 0xFF, ds := [(0, 9)], rs := [(0, 0x4444)] })
    (fun c => [c.pc.toNat, c.n.toNat, c.i.toNat, c.j.toNat, c.k.toNat, c.carry.toNat]) = some [0x1050, 9, 0x4444, 0, 0,
      1] := by decide
/-- Vector G4.F1. -/
theorem test_step_bsr : regLook [(0x2000, 2), (0x2001, 0x10)] (fun c => { c with sp0 := 0x9000 })
    (fun c => [c.pc.toNat, c.sp0.toNat, (c.byteAt 0x8FFC).toNat, (c.byteAt 0x8FFD).toNat]) = some [0x2010, 0x8FFC, 2, 0x20] := by decide
/-- Vector G4.F2. -/
theorem test_step_ret : regLook [(0x2000, 0x12), (0x2001, 8), (0x8FFC, 2), (0x8FFD, 0x20), (0x8FFE, 0), (0x8FFF, 0)]
    (fun c => { c with sp0 := 0x8FFC })
    (fun c => [c.pc.toNat, c.sp0.toNat]) = some [0x2002, 0x9008] := by decide
/-- Vector G4.F3. -/
theorem test_step_cxp : regLook [(0x104, 0), (0x105, 0x30), (0x106, 0), (0x107, 0), (0x200, 0), (0x201, 0xA0), (0x202,
      0), (0x203, 0), (0x208, 0), (0x209, 0x40), (0x20A, 0), (0x20B, 0), (0x2000, 0x22), (0x2001, 1), (0x3004, 0),
      (0x3005, 2), (0x3006, 0x20), (0x3007, 0)]
    (fun c => { c with sp0 := 0x9000, mod := 0x100 })
    (fun c => [c.pc.toNat, c.sb.toNat, c.sp0.toNat, c.mod.toNat, (c.byteAt 0x8FF8).toNat,
      (c.byteAt 0x8FF9).toNat]) = some [0x4020, 0xA000, 0x8FF8, 0x200, 2, 0x20] := by decide
/-- Vector G4.F4b. -/
theorem test_step_rett : regLook [(0x100, 0), (0x101, 0xB0), (0x102, 0), (0x103, 0), (0x2000, 0x42), (0x2001, 4),
      (0x7FF8, 1), (0x7FF9, 0x20), (0x7FFA, 0), (0x7FFB, 0), (0x7FFC, 0), (0x7FFD, 1), (0x7FFE, 0), (0x7FFF, 3)]
    (fun c => { c with sp0 := 0x7FF8, sp1 := 0x6000 })
    (fun c => [c.pc.toNat, c.sb.toNat, c.sp0.toNat, c.sp1.toNat, c.mod.toNat, c.psr.toNat]) = some [0x2001, 0xB000,
      0x8000, 0x6004, 0x100, 0x300] := by decide
/-- Vector G9.UND11. -/
theorem test_step_reti : regLook [(0x100, 0), (0x101, 0xB0), (0x102, 0), (0x103, 0), (0x108, 0), (0x109, 0x70), (0x10A,
      0), (0x10B, 0), (0x2000, 0x52), (0x5810, 0), (0x5811, 1), (0x5812, 0), (0x5813, 0), (0x5828, 0), (0x5829, 1),
      (0x582A, 0), (0x582B, 0)]
    (fun c => { c with sp0 := 0x8000, intbase := 0x5800 })
    (fun c => [c.pc.toNat, c.sb.toNat, c.sp0.toNat, c.mod.toNat, (c.byteAt 0x7FF9).toNat]) = some [0x7000, 0xB000,
      0x7FF8, 0x100, 0x20] := by decide
/-- Vector G4.F5. -/
theorem test_step_save : regLook [(0x2000, 0x62), (0x2001, 0xFF)]
    (fun c => { c with r := #v[0x10, 0x11, 0x12, 0x13, 0x14, 0x15, 0x16, 0x17], sp0 := 0x9000 })
    (fun c => [c.pc.toNat, c.sp0.toNat, (c.byteAt 0x8FE0).toNat, (c.byteAt 0x8FE4).toNat, (c.byteAt 0x8FE8).toNat,
      (c.byteAt 0x8FEC).toNat]) = some [0x2002, 0x8FE0, 0x17, 0x16, 0x15, 0x14] := by decide
/-- Vector G4.F7. -/
theorem test_step_enter : regLook [(0x2000, 0x82), (0x2001, 5), (0x2002, 8)]
    (fun c => { c with r := #v[0x11, 0, 0x22, 0, 0, 0, 0, 0], fp := 0x9100, sp0 := 0x9000 })
    (fun c => [c.pc.toNat, c.fp.toNat, c.sp0.toNat, (c.byteAt 0x8FEC).toNat, (c.byteAt 0x8FF0).toNat,
      (c.byteAt 0x8FFD).toNat]) = some [0x2003, 0x8FFC, 0x8FEC, 0x22, 0x11, 0x91] := by decide
/-- Vector G4.F8. -/
theorem test_step_nop : regLook [(0x2000, 0xA2)] (id) (fun c => [c.pc.toNat]) = some [0x2001] := by decide
/-- Vector G9.UND12. -/
theorem test_step_dia : regLook [(0x100, 0), (0x101, 0xB0), (0x102, 0), (0x103, 0), (0x108, 0), (0x109, 0x70), (0x10A,
      0), (0x10B, 0), (0x2000, 0xC2), (0x5810, 0), (0x5811, 1), (0x5812, 0), (0x5813, 0), (0x5828, 0), (0x5829, 1),
      (0x582A, 0), (0x582B, 0)]
    (fun c => { c with sp0 := 0x8000, intbase := 0x5800 })
    (fun c => [c.pc.toNat, c.sb.toNat, c.sp0.toNat, c.mod.toNat, (c.byteAt 0x7FF9).toNat]) = some [0x7000, 0xB000,
      0x7FF8, 0x100, 0x20] := by decide
/-- Vector G4.F10. -/
theorem test_step_flag : regLook [(0x2000, 0xD2)] (id) (fun c => [c.pc.toNat]) = some [0x2001] := by decide
/-- Vector G9.TR1. -/
theorem test_step_svc : regLook [(0x100, 0), (0x101, 0xB0), (0x102, 0), (0x103, 0), (0x108, 0), (0x109, 0x70), (0x10A,
      0), (0x10B, 0), (0x2000, 0xE2), (0x5814, 0), (0x5815, 1), (0x5816, 0), (0x5817, 0)]
    (fun c => { c with sp0 := 0x8000, sp1 := 0x6000, intbase := 0x5800, mod := 0x300, psr := 0xB21 })
    (fun c => [c.pc.toNat, c.sb.toNat, c.sp0.toNat, c.mod.toNat, c.psr.toNat, (c.byteAt 0x7FF9).toNat]) = some [0x7000,
      0xB000, 0x7FF8, 0x100, 0x821, 0x20] := by decide
/-- Vector G9.TR2. -/
theorem test_step_bpt : regLook [(0x100, 0), (0x101, 0xB0), (0x102, 0), (0x103, 0), (0x108, 0), (0x109, 0x70), (0x10A,
      0), (0x10B, 0), (0x2000, 0xF2), (0x5820, 0), (0x5821, 1), (0x5822, 0), (0x5823, 0)]
    (fun c => { c with sp0 := 0x8000, intbase := 0x5800, psr := 2 })
    (fun c => [c.pc.toNat, c.sb.toNat, c.sp0.toNat, c.mod.toNat, c.psr.toNat, (c.byteAt 0x7FF9).toNat]) = some [0x7000,
      0xB000, 0x7FF8, 0x100, 0, 0x20] := by decide
/-- Vector G7.Y3. -/
theorem test_step_movs : regLook [(0x2000, 0xE), (0x2001, 3), (0x2002, 0), (0x3000, 0xEF), (0x3001, 0xBE), (0x3002,
      0xAD), (0x3003, 0xDE)]
    (fun c => { c with r := #v[1, 0x3000, 0x4000, 0, 0, 0, 0, 0] })
    (fun c => [(c.reg 0).toNat, (c.reg 1).toNat, (c.reg 2).toNat, c.pc.toNat, (c.read32 0x4000).toNat]) = some [0,
      0x3004, 0x4004, 0x2003, 0xDEADBEEF] := by decide
/-- Vector G7.Y6. -/
theorem test_step_cmps : regLook [(0x2000, 0xE), (0x2001, 4), (0x2002, 0)] (fun c => { c with psr := 0xA4 })
    (fun c => [c.pc.toNat, c.psr.toNat]) = some [0x2003, 0x40] := by decide
/-- Vector G7.Y11. -/
theorem test_step_setcfg : regLook [(0x2000, 0xE), (0x2001, 0x8B), (0x2002, 2)] (id)
    (fun c => [c.pc.toNat, c.cfg.toNat]) = some [0x2003, 5] := by decide
/-- Vector G7.ROT1. -/
theorem test_step_rot : regLook [(0x2000, 0x4E), (0x2001, 3), (0x2002, 0xA0), (0x2003, 8)]
    (fun c => { c with r := #v[0x12345678, 0, 0, 0, 0, 0, 0, 0] })
    (fun c => [(c.reg 0).toNat, c.pc.toNat]) = some [0x34567812, 0x2004] := by decide
/-- Vector G7.ASH8. -/
theorem test_step_ash : regLook [(0x2000, 0x4E), (0x2001, 0x45), (0x2002, 0xA2), (0x2003, 2), (0x2004, 0), (0x3000, 1),
      (0x3001, 0x40), (0x3002, 0xFF), (0x3003, 0xFF)]
    (fun c => { c with r := #v[0, 0x3000, 0, 0, 0, 0, 0, 0] })
    (fun c => [c.pc.toNat, (c.byteAt 0x3000).toNat, (c.byteAt 0x3001).toNat]) = some [0x2005, 4, 0] := by decide
/-- Vector G7.BIT3. -/
theorem test_step_cbit : regLook [(0x2000, 0x4E), (0x2001, 0x49), (0x2002, 0xA2), (0x2003, 0xFF), (0x2004, 0xFF),
      (0x2005, 0), (0x2FFF, 0xFF)]
    (fun c => { c with r := #v[0, 0x3000, 0, 0, 0, 0, 0, 0] })
    (fun c => [c.pc.toNat, c.psr.toNat, (c.byteAt 0x2FFF).toNat]) = some [0x2006, 0x20, 0x7F] := by decide
/-- Vector G7.BIT6. -/
theorem test_step_cbiti : regLook [(0x2000, 0x4E), (0x2001, 0x4F), (0x2002, 0)] (fun c => { c with psr := 0x20 })
    (fun c => [c.pc.toNat, c.psr.toNat]) = some [0x2003, 0] := by decide
/-- Vector G7.LSH6. -/
theorem test_step_lsh : regLook [(0x2000, 0x4E), (0x2001, 0x17), (0x2002, 8)]
    (fun c => { c with r := #v[0xF0, 0x12FC, 0, 0, 0, 0, 0, 0] })
    (fun c => [(c.reg 0).toNat, c.pc.toNat]) = some [0xF, 0x2003] := by decide
/-- Vector G7.BIT1. -/
theorem test_step_sbit : regLook [(0x2000, 0x4E), (0x2001, 0x5B), (0x2002, 0)]
    (fun c => { c with r := #v[0xFFFFFFFF, 0, 0, 0, 0, 0, 0, 0] })
    (fun c => [(c.reg 1).toNat, c.pc.toNat]) = some [0x80000000, 0x2003] := by decide
/-- Vector G7.BIT5. -/
theorem test_step_sbiti : regLook [(0x2000, 0x4E), (0x2001, 0x5F), (0x2002, 0)]
    (fun c => { c with r := #v[0x1F, 0x80000000, 0, 0, 0, 0, 0, 0] })
    (fun c => [c.pc.toNat, c.psr.toNat]) = some [0x2003, 0x20] := by decide
/-- Vector G7.UN9. -/
theorem test_step_neg : regLook [(0x2000, 0x4E), (0x2001, 0xE3), (0x2002, 0xBD), (0x9000, 5), (0x9001, 0), (0x9002, 0),
      (0x9003, 0)]
    (fun c => { c with sp0 := 0x9000 })
    (fun c => [c.pc.toNat, c.psr.toNat, (c.read32 0x9000).toNat]) = some [0x2003, 1, 0xFFFFFFFB] := by decide
/-- Vector G7.UN8. -/
theorem test_step_notI : regLook [(0x2000, 0x4E), (0x2001, 0x64), (0x2002, 0)]
    (fun c => { c with r := #v[0xFE, 0, 0, 0, 0, 0, 0, 0] })
    (fun c => [(c.reg 1).toNat, c.pc.toNat]) = some [0xFF, 0x2003] := by decide
/-- Vector G7.UN4. -/
theorem test_step_absI : regLook [(0x2000, 0x4E), (0x2001, 0x73), (0x2002, 0)]
    (fun c => { c with r := #v[0x80000000, 0, 0, 0, 0, 0, 0, 0] })
    (fun c => [(c.reg 1).toNat, c.pc.toNat, c.psr.toNat]) = some [0x80000000, 0x2003, 0x20] := by decide
/-- Vector G7.UN7. -/
theorem test_step_com : regLook [(0x2000, 0x4E), (0x2001, 0x74), (0x2002, 0)]
    (fun c => { c with r := #v[0xF, 0xAABBCCDD, 0, 0, 0, 0, 0, 0] })
    (fun c => [(c.reg 1).toNat, c.pc.toNat]) = some [0xAABBCCF0, 0x2003] := by decide
/-- Vector G7.BIT4. -/
theorem test_step_ibit : regLook [(0x2000, 0x4E), (0x2001, 0xFB), (0x2002, 5), (0x9004, 2)]
    (fun c => { c with r := #v[0x21, 0, 0, 0, 0, 0, 0, 0], sp0 := 0x9000 })
    (fun c => [c.pc.toNat, c.psr.toNat, (c.byteAt 0x9004).toNat]) = some [0x2003, 0x20, 0] := by decide
/-- Vector G8.Q1. -/
theorem test_step_movxbw : regLook [(0x2000, 0xCE), (0x2001, 0x50), (0x2002, 0xA0), (0x2003, 0xFF)]
    (fun c => { c with r := #v[0, 0x11223344, 0, 0, 0, 0, 0, 0] })
    (fun c => [(c.reg 1).toNat, c.pc.toNat]) = some [0x1122FFFF, 0x2004] := by decide
/-- Vector G8.Q2. -/
theorem test_step_movzbw : regLook [(0x2000, 0xCE), (0x2001, 0xD4), (0x2002, 0xA5), (0x2003, 0xFF), (0x8FFF, 0x77)]
    (fun c => { c with sp0 := 0x9000 })
    (fun c => [c.pc.toNat, c.sp0.toNat, (c.byteAt 0x8FFE).toNat, (c.byteAt 0x8FFF).toNat]) = some [0x2004, 0x8FFE,
      0xFF, 0] := by decide
/-- Vector G8.Q4. -/
theorem test_step_movzid : regLook [(0x2000, 0xCE), (0x2001, 0x58), (0x2002, 0)]
    (fun c => { c with r := #v[0x1280, 0xFFFFFFFF, 0, 0, 0, 0, 0, 0] })
    (fun c => [(c.reg 1).toNat, c.pc.toNat]) = some [0x80, 0x2003] := by decide
/-- Vector G8.Q5. -/
theorem test_step_movxid : regLook [(0x2000, 0xCE), (0x2001, 0x1D), (0x2002, 0xB8), (0x9000, 0xFE), (0x9001, 0xFF),
      (0x9002, 0x34), (0x9003, 0x12)]
    (fun c => { c with sp0 := 0x9000 })
    (fun c => [(c.reg 0).toNat, c.pc.toNat, c.sp0.toNat]) = some [0xFFFFFFFE, 0x2003, 0x9002] := by decide
/-- Vector G8.Q6. -/
theorem test_step_mul : regLook [(0x2000, 0xCE), (0x2001, 0x60), (0x2002, 0)]
    (fun c => { c with r := #v[0x10, 0xAABBCC11, 0, 0, 0, 0, 0, 0] })
    (fun c => [(c.reg 1).toNat, c.pc.toNat]) = some [0xAABBCC10, 0x2003] := by decide
/-- Vector G8.Q13. -/
theorem test_step_quo : regLook [(0x2000, 0xCE), (0x2001, 0x71), (0x2002, 0)]
    (fun c => { c with r := #v[3, 0xFFF9, 0, 0, 0, 0, 0, 0] })
    (fun c => [(c.reg 1).toNat, c.pc.toNat]) = some [0xFFFE, 0x2003] := by decide
/-- Vector G8.Q10. -/
theorem test_step_rem : regLook [(0x2000, 0xCE), (0x2001, 0x74), (0x2002, 0)]
    (fun c => { c with r := #v[0xFF, 0x11223380, 0, 0, 0, 0, 0, 0] })
    (fun c => [(c.reg 1).toNat, c.pc.toNat]) = some [0x11223300, 0x2003] := by decide
/-- Vector G8.Q10d. -/
theorem test_step_modI : regLook [(0x2000, 0xCE), (0x2001, 0x7B), (0x2002, 0)]
    (fun c => { c with r := #v[0xFFFFFFFF, 0x80000000, 0, 0, 0, 0, 0, 0] })
    (fun c => [(c.reg 1).toNat, c.pc.toNat]) = some [0, 0x2003] := by decide
/-- Vector G8.Q11. -/
theorem test_step_divI : regLook [(0x2000, 0xCE), (0x2001, 0x7D), (0x2002, 0)]
    (fun c => { c with r := #v[3, 0xFFF9, 0, 0, 0, 0, 0, 0] })
    (fun c => [(c.reg 1).toNat, c.pc.toNat]) = some [0xFFFD, 0x2003] := by decide
/-- Vector G9.UND8. -/
theorem test_step_undefinedB10 : regLook [(0x100, 0), (0x101, 0xB0), (0x102, 0), (0x103, 0), (0x108, 0), (0x109, 0x70),
      (0x10A, 0), (0x10B, 0), (0x2000, 0x7E), (0x5810, 0), (0x5811, 1), (0x5812, 0), (0x5813, 0), (0x5828, 0), (0x5829,
      1), (0x582A, 0), (0x582B, 0)]
    (fun c => { c with sp0 := 0x8000, intbase := 0x5800 })
    (fun c => [c.pc.toNat, c.sb.toNat, c.sp0.toNat, c.mod.toNat, (c.byteAt 0x7FF9).toNat]) = some [0x7000, 0xB000,
      0x7FF8, 0x100, 0x20] := by decide
/-- Vector G5.X11. -/
theorem test_step_cxpd : regLook [(0x200, 0), (0x201, 0xA0), (0x202, 0), (0x203, 0), (0x208, 0), (0x209, 0x40), (0x20A,
      0), (0x20B, 0), (0x1004, 0), (0x1005, 2), (0x1006, 0x20), (0x1007, 0), (0x2000, 0x7F), (0x2001, 0xA8), (0x2002,
      0x90), (0x2003, 4)]
    (fun c => { c with sp0 := 0x9000, mod := 0x100 })
    (fun c => [c.pc.toNat, c.sb.toNat, c.sp0.toNat, c.mod.toNat, (c.byteAt 0x8FF8).toNat,
      (c.byteAt 0x8FF9).toNat]) = some [0x4020, 0xA000, 0x8FF8, 0x200, 4, 0x20] := by decide
/-- Vector G5.X1. -/
theorem test_step_bicpsr : regLook [(0x2000, 0x7C), (0x2001, 0xA1), (0x2002, 0xFF)] (fun c => { c with psr := 0xFE5 })
    (fun c => [c.pc.toNat, c.psr.toNat]) = some [0x2003, 0xF00] := by decide
/-- Vector G5.X8. -/
theorem test_step_jump : regLook [(0x2000, 0x7F), (0x2001, 0xBA)] (fun c => { c with sp0 := 0x9000 })
    (fun c => [c.pc.toNat]) = some [0x9000] := by decide
/-- Vector G5.X2b. -/
theorem test_step_bispsr : regLook [(0x2000, 0x7C), (0x2001, 0xA3), (0x2002, 0xFF)] (fun c => { c with psr := 0x100 })
    (fun c => [c.pc.toNat, c.psr.toNat]) = some [0x2003, 0x1FF] := by decide
/-- Vector G5.X4. -/
theorem test_step_adjsp : regLook [(0x2000, 0x7D), (0x2001, 5)]
    (fun c => { c with r := #v[0x11118000, 0, 0, 0, 0, 0, 0, 0], sp0 := 0x9000 })
    (fun c => [c.pc.toNat, c.sp0.toNat]) = some [0x2002, 0x11000] := by decide
/-- Vector G5.X6. -/
theorem test_step_jsr : regLook [(0x2000, 0x7F), (0x2001, 0xCE), (0x2002, 8)] (fun c => { c with sp0 := 0x9000 })
    (fun c => [c.pc.toNat, c.sp0.toNat, (c.byteAt 0x8FFC).toNat, (c.byteAt 0x8FFD).toNat]) = some [0x9008, 0x8FFC, 3, 0x20] := by decide
/-- Vector G5.X9. -/
theorem test_step_caseI : regLook [(0x2000, 0x7D), (0x2001, 7)]
    (fun c => { c with r := #v[0x11110100, 0, 0, 0, 0, 0, 0, 0] })
    (fun c => [c.pc.toNat]) = some [0x2100] := by decide
/-- Vector G9.UND13. -/
theorem test_step_undefinedF3 : regLook [(0x100, 0), (0x101, 0xB0), (0x102, 0), (0x103, 0), (0x108, 0), (0x109, 0x70),
      (0x10A, 0), (0x10B, 0), (0x2000, 0x7F), (0x2001, 4), (0x5810, 0), (0x5811, 1), (0x5812, 0), (0x5813, 0), (0x5828,
      0), (0x5829, 1), (0x582A, 0), (0x582B, 0)]
    (fun c => { c with sp0 := 0x8000, intbase := 0x5800 })
    (fun c => [c.pc.toNat, c.sb.toNat, c.sp0.toNat, c.mod.toNat, (c.byteAt 0x7FF9).toNat]) = some [0x7000, 0xB000,
      0x7FF8, 0x100, 0x20] := by decide
/-- Vector G5.W2. -/
theorem test_step_addq : regLook [(0x2000, 0x8D), (0x2001, 3)] (fun c => { c with r := #v[0x7FFA, 0, 0, 0, 0, 0, 0, 0] })
    (fun c => [(c.reg 0).toNat, c.pc.toNat, c.psr.toNat]) = some [0x8001, 0x2002, 0x20] := by decide
/-- Vector G5.W4. -/
theorem test_step_cmpq : regLook [(0x2000, 0x9C), (0x2001, 7)] (fun c => { c with r := #v[0xFF, 0, 0, 0, 0, 0, 0, 0] })
    (fun c => [c.pc.toNat, c.psr.toNat]) = some [0x2002, 0x40] := by decide
/-- Vector G5.W12. -/
theorem test_step_spr : regLook [(0x2000, 0xAF), (0x2001, 6)] (fun c => { c with psr := 0xA65 })
    (fun c => [(c.reg 0).toNat, c.pc.toNat]) = some [0xA65, 0x2002] := by decide
/-- Vector G5.SC0. -/
theorem test_step_scond : regLook [(0x2000, 0x3F), (0x2001, 0)]
    (fun c => { c with r := #v[0xFFFFFFFF, 0, 0, 0, 0, 0, 0, 0], psr := 0x84 })
    (fun c => [(c.reg 0).toNat, c.pc.toNat]) = some [0, 0x2002] := by decide
/-- Vector G5.W8. -/
theorem test_step_acb : regLook [(0x2000, 0xCC), (0x2001, 0), (0x2002, 0x7E)]
    (fun c => { c with r := #v[0x112233FF, 0, 0, 0, 0, 0, 0, 0] })
    (fun c => [(c.reg 0).toNat, c.pc.toNat]) = some [0x11223300, 0x2003] := by decide
/-- Vector G5.W11. -/
theorem test_step_movq : regLook [(0x2000, 0x5F), (0x2001, 0xBC)] (fun c => { c with sp0 := 0x9000 })
    (fun c => [c.pc.toNat, c.sp0.toNat, (c.read32 0x8FFC).toNat]) = some [0x2002, 0x8FFC, 0xFFFFFFF8] := by decide
/-- Vector G5.W22. -/
theorem test_step_lpr : regLook [(0x2000, 0x6F), (0x2001, 0xBC), (0x9000, 0), (0x9001, 0x88), (0x9002, 0), (0x9003, 0)]
    (fun c => { c with sp1 := 0x9000, psr := 0x200 })
    (fun c => [c.pc.toNat, c.fp.toNat, c.sp1.toNat]) = some [0x2002, 0x8800, 0x9004] := by decide
/-- Vector G6.V1. -/
theorem test_step_add : regLook [(0x2000, 0x43), (0x2001, 0)]
    (fun c => { c with r := #v[1, 0x7FFFFFFF, 0, 0, 0, 0, 0, 0] })
    (fun c => [(c.reg 1).toNat, c.pc.toNat, c.psr.toNat]) = some [0x80000000, 0x2002, 0x20] := by decide
/-- Vector G3.TS7. -/
theorem test_step_cmp : regLook [(0x2000, 0xC7), (0x2001, 0xBD), (0x9000, 5), (0x9001, 0), (0x9002, 0), (0x9003, 0),
      (0x9004, 7), (0x9005, 0), (0x9006, 0), (0x9007, 0)]
    (fun c => { c with sp0 := 0x9000, psr := 0xC4 })
    (fun c => [c.pc.toNat, c.sp0.toNat, c.psr.toNat]) = some [0x2002, 0x9008, 0] := by decide
/-- Vector G6.V16. -/
theorem test_step_bic : regLook [(0x2000, 0x48), (0x2001, 0)]
    (fun c => { c with r := #v[0xFF0F, 0x123456FF, 0, 0, 0, 0, 0, 0] })
    (fun c => [(c.reg 1).toNat, c.pc.toNat]) = some [0x123456F0, 0x2002] := by decide
/-- Vector G6.V6. -/
theorem test_step_addc : regLook [(0x2000, 0x53), (0x2001, 0)]
    (fun c => { c with r := #v[0x7FFFFFFF, 0, 0, 0, 0, 0, 0, 0], psr := 1 })
    (fun c => [(c.reg 1).toNat, c.pc.toNat, c.psr.toNat]) = some [0x80000000, 0x2002, 0x20] := by decide
/-- Vector G3.TS1. -/
theorem test_step_mov : regLook [(0x2000, 0xD7), (0x2001, 5)]
    (fun c => { c with r := #v[0xCAFEBABE, 0, 0, 0, 0, 0, 0, 0], sp0 := 0x9000 })
    (fun c => [c.pc.toNat, c.sp0.toNat, (c.read32 0x8FFC).toNat]) = some [0x2002, 0x8FFC, 0xCAFEBABE] := by decide
/-- Vector G6.V16b. -/
theorem test_step_orI : regLook [(0x2000, 0x59), (0x2001, 0)]
    (fun c => { c with r := #v[0xFFFF00F0, 0x1234560F, 0, 0, 0, 0, 0, 0] })
    (fun c => [(c.reg 1).toNat, c.pc.toNat]) = some [0x123456FF, 0x2002] := by decide
/-- Vector G6.V7. -/
theorem test_step_sub : regLook [(0x2000, 0x63), (0x2001, 0)]
    (fun c => { c with r := #v[1, 0x80000000, 0, 0, 0, 0, 0, 0] })
    (fun c => [(c.reg 1).toNat, c.pc.toNat, c.psr.toNat]) = some [0x7FFFFFFF, 0x2002, 0x20] := by decide
/-- Vector G3.TS5. -/
theorem test_step_addr : regLook [(0x2000, 0x27), (0x2001, 0xB8)] (fun c => { c with sp0 := 0x9000 })
    (fun c => [(c.reg 0).toNat, c.pc.toNat]) = some [0x9000, 0x2002] := by decide
/-- Vector G6.V16c. -/
theorem test_step_andI : regLook [(0x2000, 0x6B), (0x2001, 0)]
    (fun c => { c with r := #v[0xF0F0F0F, 0x12345678, 0, 0, 0, 0, 0, 0] })
    (fun c => [(c.reg 1).toNat, c.pc.toNat]) = some [0x2040608, 0x2002] := by decide
/-- Vector G6.V11. -/
theorem test_step_subc : regLook [(0x2000, 0x73), (0x2001, 0)]
    (fun c => { c with r := #v[0, 0x80000000, 0, 0, 0, 0, 0, 0], psr := 1 })
    (fun c => [(c.reg 1).toNat, c.pc.toNat, c.psr.toNat]) = some [0x7FFFFFFF, 0x2002, 0x20] := by decide
/-- Vector G6.V17. -/
theorem test_step_tbit : regLook [(0x2000, 0x77), (0x2001, 0)]
    (fun c => { c with r := #v[0xFFFFFFFF, 0x80000000, 0, 0, 0, 0, 0, 0] })
    (fun c => [c.pc.toNat, c.psr.toNat]) = some [0x2002, 0x20] := by decide
/-- Vector G6.V16d. -/
theorem test_step_xorI : regLook [(0x2000, 0x78), (0x2001, 0)]
    (fun c => { c with r := #v[0xFF, 0x123456AA, 0, 0, 0, 0, 0, 0], psr := 0xE5 })
    (fun c => [(c.reg 1).toNat, c.pc.toNat]) = some [0x12345655, 0x2002] := by decide
/-- Vector G9.ILL4. -/
theorem test_step_spr_traps : regLook [(0x100, 0), (0x101, 0xB0), (0x102, 0), (0x103, 0), (0x108, 0), (0x109, 0x70),
      (0x10A, 0), (0x10B, 0), (0x2000, 0x2F), (0x2001, 7), (0x5810, 0), (0x5811, 1), (0x5812, 0), (0x5813, 0), (0x5828,
      0), (0x5829, 1), (0x582A, 0), (0x582B, 0)]
    (fun c => { c with sp0 := 0x8000, intbase := 0x5800, psr := 0x100 })
    (fun c => [c.pc.toNat, c.sb.toNat, c.sp0.toNat, c.mod.toNat, c.psr.toNat, (c.byteAt 0x7FF9).toNat]) = some [0x7000,
      0xB000, 0x7FF8, 0x100, 0, 0x20] := by decide
/-- Vector G9.ILL8. -/
theorem test_step_setcfg_traps : regLook [(0x100, 0), (0x101, 0xB0), (0x102, 0), (0x103, 0), (0x108, 0), (0x109, 0x70),
      (0x10A, 0), (0x10B, 0), (0x2000, 0xE), (0x2001, 0x8B), (0x2002, 2), (0x5810, 0), (0x5811, 1), (0x5812, 0),
      (0x5813, 0), (0x5828, 0), (0x5829, 1), (0x582A, 0), (0x582B, 0)]
    (fun c => { c with sp0 := 0x8000, intbase := 0x5800, psr := 0x100 })
    (fun c => [c.pc.toNat, c.sb.toNat, c.sp0.toNat, c.mod.toNat, c.psr.toNat, (c.byteAt 0x7FF9).toNat]) = some [0x7000,
      0xB000, 0x7FF8, 0x100, 0, 0x20] := by decide
/-- Vector G9.TR7. -/
theorem test_step_divI_traps : regLook [(0x100, 0), (0x101, 0xB0), (0x102, 0), (0x103, 0), (0x108, 0), (0x109, 0x70),
      (0x10A, 0), (0x10B, 0), (0x2000, 0xCE), (0x2001, 0x7F), (0x2002, 0xB8), (0x5818, 0), (0x5819, 1), (0x581A, 0),
      (0x581B, 0), (0x9000, 0), (0x9001, 0), (0x9002, 0), (0x9003, 0)]
    (fun c => { c with
      r := #v[0, 9, 0, 0, 0, 0, 0, 0], sp0 := 0x8000, sp1 := 0x9000,
      intbase := 0x5800, psr := 0x200 })
    (fun c => [c.pc.toNat, c.sb.toNat, c.sp0.toNat, c.mod.toNat, c.psr.toNat, (c.byteAt 0x7FF9).toNat]) = some [0x7000,
      0xB000, 0x7FF8, 0x100, 0, 0x20] := by decide
/-- Vector G3.TS4. -/
theorem test_step_add_G3_TS4 : regLook [(0x2000, 0xC3), (0x2001, 0xBD), (0x9000, 5), (0x9001, 0), (0x9002, 0), (0x9003,
      0), (0x9004, 7), (0x9005, 0), (0x9006, 0), (0x9007, 0)]
    (fun c => { c with sp0 := 0x9000 })
    (fun c => [c.pc.toNat, c.sp0.toNat, (c.byteAt 0x9004).toNat]) = some [0x2002, 0x9004, 0xC] := by decide

/-- Vectors G4.BA0 to G4.BA15: the sixteen conditions with `N` and `L` set, displacement -2. -/
theorem test_step_branches_NL :
    ([0x0A, 0x1A, 0x2A, 0x3A, 0x4A, 0x5A, 0x6A, 0x7A, 0x8A, 0x9A, 0xAA, 0xBA, 0xCA, 0xDA, 0xEA, 0xFA].map fun b =>
      regLook [(0x2000, b), (0x2001, 0x7E)] (fun c => { c with psr := 0x84 }) (fun c => [c.pc.toNat])) =
    [0x2002, 0x1FFE, 0x2002, 0x1FFE, 0x1FFE, 0x2002, 0x1FFE, 0x2002, 0x2002, 0x1FFE, 0x2002, 0x1FFE, 0x2002, 0x1FFE,
      0x1FFE, 0x2002].map fun a => some [a] := by decide

/-- Vectors G4.BB0 to G4.BB15: the same with `Z`, `F` and `C` set. -/
theorem test_step_branches_ZFC :
    ([0x0A, 0x1A, 0x2A, 0x3A, 0x4A, 0x5A, 0x6A, 0x7A, 0x8A, 0x9A, 0xAA, 0xBA, 0xCA, 0xDA, 0xEA, 0xFA].map fun b =>
      regLook [(0x2000, b), (0x2001, 0x7E)] (fun c => { c with psr := 0x61 }) (fun c => [c.pc.toNat])) =
    [0x1FFE, 0x2002, 0x1FFE, 0x2002, 0x2002, 0x1FFE, 0x2002, 0x1FFE, 0x1FFE, 0x2002, 0x2002, 0x1FFE, 0x2002, 0x1FFE,
      0x1FFE, 0x2002].map fun a => some [a] := by decide

/-- R236, `tn` clear: `n` stored at `t`, nothing else. -/
theorem test_step_mstore1 : stackLook [(0x1000, 0xF080)] (fun c => { c with t := 0x2000, n := 0xBEEF, k := 5 })
    (fun c => [(c.progRead 0x2000).toNat, c.t.toNat, c.n.toNat, c.k.toNat]) = some [0xBEEF, 0x2000, 0xBEEF, 5] := by decide

/-- R236, `tn` set, function Y: `n` stored, then popped into `t`. -/
theorem test_step_mstore2 : stackLook [(0x1000, 0xFF40)]
    (fun c => { c with t := 0x2000, n := 0xBEEF, k := 5, ds := [(6, 0x77)] })
    (fun c => [(c.progRead 0x2000).toNat, c.t.toNat, c.n.toNat, c.k.toNat]) = some [0xBEEF, 0xBEEF, 0x77, 6] := by decide

/-- R205, R177: the two refused encodings. -/
theorem test_step_refused :
    refusalOf (stackState [(0x1000, 0xD180)] id) = some .reservedEncoding ∧
    refusalOf (stackState [(0x1000, 0x8008)] id) = some .stepFlagWithoutCondition := by decide

/-- R141: interrupt service pushes carry over `pc` and runs the word at the vector. -/
theorem test_step_interrupt : stackLook [(0x20, 0x8000), (0x1005, 0x8E00)]
    (fun c => { c with pc := 0x1005, i := 0xAAAA, xtri := 0x10, intreq := true, carry := true })
    (fun c => [c.pc.toNat, c.i.toNat, c.j.toNat, (c.rsRead 0).toNat, c.intreq.toNat]) =
    some [0x21, 0x9005, 0xFF, 0xAAAA, 0] := by decide

/-- R142, R143: in TIMES the word runs with `pc` standing still, until the count reaches zero. -/
theorem test_step_times :
    stackLook [(0x1000, 0x8E00)] (fun c => { c with i := 2, n := 7, timesmode := true })
      (fun c => [c.pc.toNat, c.i.toNat, c.t.toNat, c.timesmode.toNat]) = some [0x1000, 1, 7, 1] ∧
    stackLook [(0x1000, 0x8E00)] (fun c => { c with i := 1, n := 7, timesmode := true, rs := [(1, 0x55)] })
      (fun c => [c.pc.toNat, c.i.toNat, c.t.toNat, c.timesmode.toNat]) = some [0x1001, 0x55, 7, 0] := by decide

/-- R285: `pc` and `mod` popped, `sb` from the module table. -/
theorem test_step_rxp : regLook [(0x200, 0), (0x201, 0xA0), (0x202, 0), (0x203, 0), (0x2000, 0x32), (0x2001, 4), (0x9000, 0),
      (0x9001, 0x40), (0x9002, 0), (0x9003, 0), (0x9004, 0), (0x9005, 2), (0x9006, 0), (0x9007, 0)]
    (fun c => { c with sp0 := 0x9000, mod := 0x100 })
    (fun c => [c.pc.toNat, c.mod.toNat, c.sb.toNat, c.sp0.toNat]) = some [0x4000, 0x200, 0xA000, 0x900C] := by decide

/-- R289, R290: bit 0 of a `RESTORE` mask is `r7`. -/
theorem test_step_restore : regLook [(0x2000, 0x72), (0x2001, 3), (0x9000, 0x11), (0x9001, 0), (0x9002, 0), (0x9003, 0),
      (0x9004, 0x22), (0x9005, 0), (0x9006, 0), (0x9007, 0)]
    (fun c => { c with sp0 := 0x9000 })
    (fun c => [(c.reg 7).toNat, (c.reg 6).toNat, c.sp0.toNat, c.pc.toNat]) = some [0x11, 0x22, 0x9008, 0x2002] := by decide

/-- R292: the registers, then `SP` and `fp` from the frame. -/
theorem test_step_exitI : regLook [(0x2000, 0x92), (0x2001, 0x80), (0x9000, 0x55), (0x9001, 0), (0x9002, 0), (0x9003, 0),
      (0x9010, 0xCD), (0x9011, 0xAB), (0x9012, 0), (0x9013, 0)]
    (fun c => { c with sp0 := 0x9000, fp := 0x9010 })
    (fun c => [(c.reg 0).toNat, c.sp0.toNat, c.fp.toNat, c.pc.toNat]) = some [0x55, 0x9014, 0xABCD, 0x2002] := by decide

/-- R294: `WAIT` leaves `pc`. -/
theorem test_step_wait : regLook [(0x2000, 0xB2)] id (fun c => [c.pc.toNat]) = some [0x2000] := by decide

/-- R356, R359: until match, not met and met. -/
theorem test_step_skps :
    regLook [(0x2000, 0x0E), (0x2001, 0x0C), (0x2002, 6), (0x3000, 0x40)]
      (fun c => { c with r := #v[3, 0x3000, 9, 0, 0x41, 0, 0, 0], psr := 0x20 })
      (fun c => [(c.reg 0).toNat, (c.reg 1).toNat, (c.reg 2).toNat, c.psr.toNat, c.pc.toNat]) =
      some [2, 0x3001, 9, 0x20, 0x2000] ∧
    regLook [(0x2000, 0x0E), (0x2001, 0x0C), (0x2002, 6), (0x3000, 0x41)]
      (fun c => { c with r := #v[3, 0x3000, 9, 0, 0x41, 0, 0, 0] })
      (fun c => [(c.reg 0).toNat, (c.reg 1).toNat, c.psr.toNat, c.pc.toNat]) = some [3, 0x3000, 0x20, 0x2003] := by decide

/-- R377, R378, R386 to R389, R395, R396: the unimplemented opcodes; R266: a scaled index mode. -/
theorem test_step_faults :
    ([(0x4E, 0x2F), (0x4E, 0x3F), (0xCE, 0x03), (0xCE, 0x07), (0xCE, 0x0B), (0xCE, 0x0F), (0xCE, 0x27), (0xCE, 0x2F)].map
      fun b => faultOf (regState [(0x2000, b.1), (0x2001, b.2), (0x2002, 0)] id)) =
      [.subp, .addp, .movm, .cmpm, .inss, .exts, .mei, .dei].map (fun m => some (.notImplementedOpcode m)) ∧
    faultOf (regState [(0x2000, 0x17), (0x2001, 0xE0)] id) = some (.notImplementedMode 0) := by decide

/-- R10, R440: a larger set stops `NOP`, an empty one does not give the eight a meaning; a word of no mnemonic traps. -/
theorem test_step_parameter_set :
    faultOf (missingState [(0x2000, 0xA2)] [.nop]) = some (.notImplementedOpcode .nop) ∧
    faultOf (missingState [(0x2000, 0xCE), (0x2001, 0x03), (0x2002, 0)] []) = some (.notImplementedOpcode .movm) ∧
    faultOf (missingState [(0x2000, 0x0E), (0x2001, 0x0A), (0x2002, 0)] [.setcfg]) = none := by decide

/-- R13, R466: a run is of one core, whoever has the turn: three words of cost 1, 2, 1 against a budget of 2; two `NOP`s. -/
theorem test_run_for :
    (match runFor .stack 2 { stackState [(0, 0), (0x1000, 0x8000), (0x1001, 0xC000), (0x1002, 0x8000)] id with turn := .reg } with
      | .next t => [t.stack.pc.toNat, t.reg.pc.toNat]
      | .fault _ => []
      | .refused _ => []) = [0x1002, 0] ∧
    (match runFor .reg 2 { regState [(0x2000, 0xA2), (0x2001, 0xA2), (0x2002, 0xA2)] id with turn := .stack } with
      | .next t => [t.stack.pc.toNat, t.reg.pc.toNat]
      | .fault _ => []
      | .refused _ => []) = [0x1000, 0x2002] := by decide

/-- R450, R452: a reset that the host asks for before the step. -/
theorem test_step_host_reset :
    (match step { stackState [(0x1000, 0x8E00)] (fun c => { c with pc := 0x7777, n := 7 }) with
        script := [[.resetStack, .irq]] } with
      | .next t => [t.stack.pc.toNat, t.stack.t.toNat, t.stack.n.toNat, t.stack.intreq.toNat, t.script.length]
      | .fault _ => []
      | .refused _ => []) = [0x1001, 0, 0, 1, 0] := by decide

/-- R451, R455, R469: from reset, the host loads a word at the boot address and the step runs it (`0xCF47`, R198). -/
theorem test_step_host_load :
    (match step { State.reset with script := [[.storeProg 0x1000 0xCF47, .storeData 0 9, .storeReturn 1 8, .storeMem 5 0xA2]] } with
      | .next t => [t.stack.pc.toNat, t.stack.t.toNat, (t.stack.dsRead 0).toNat, (t.stack.rsRead 1).toNat,
                    (t.reg.byteAt 5).toNat]
      | .fault _ => []
      | .refused _ => []) = [0x1001, 7, 0, 8, 0xA2] := by decide

/-! ## Witnesses: a state and operands that meet the hypotheses of each obligation -/

theorem witness_DecodeEncodeRoundTrip :
    wellFormed (.sCall 0x7FFF) = true ∧ wellFormed (.add .b (.imm (.b 0xFF)) .tos) = true ∧
    wellFormed (.undefinedB10 (.byte 0x06)) = true := by decide

theorem witness_DecodeTakesExactlyItsBytes :
    (wellFormed .nop = true ∧ encode .nop = .bytes [0xA2]) ∧
    (wellFormed (.mul .d (.ext (.d4 0) (.d4 0)) (.ext (.d4 0) (.d4 0))) = true ∧
      ∃ bs, encode (.mul .d (.ext (.d4 0) (.d4 0)) (.ext (.d4 0) (.d4 0))) = .bytes bs ∧ bs.length = 19) :=
  ⟨by decide, by decide, _, rfl, by decide⟩

theorem witness_DisplacementRoundTrip :
    (-64 ≤ (-64 : Int) ∧ (-64 : Int) ≤ 63) ∧ (-64 ≤ (63 : Int) ∧ (63 : Int) ≤ 63) ∧
    (-8192 ≤ (-8192 : Int) ∧ (-8192 : Int) ≤ 8191) ∧ (-8192 ≤ (8191 : Int) ∧ (8191 : Int) ≤ 8191) ∧
    (-536870912 ≤ (-536870912 : Int) ∧ (-536870912 : Int) ≤ 536870911) ∧
    (-536870912 ≤ (536870911 : Int) ∧ (536870911 : Int) ≤ 536870911) := by decide

theorem witness_DisplacementLengthByFirstByte :
    decodeDisp [0x7F] = .ok (.d1 0x7F, []) ∧ decodeDisp [0x80, 0] = .ok (.d2 0, []) ∧
    decodeDisp [0xBF, 0xFF] = .ok (.d2 0x3FFF, []) ∧ decodeDisp [0xC0, 0, 0, 0] = .ok (.d4 0, []) :=
  ⟨rfl, rfl, rfl, rfl⟩

theorem witness_StepKeepsMemoryCanonical : Memory.wf idle ∧ ∃ t, step idle = .next t :=
  ⟨by decide, next_of_goes (by decide)⟩

theorem witness_MemoryReadAfterWrite :
    3 < Size.bytes .d ∧ outside (Size.bytes .d) 0xFFFFFFFE#32 2#32 ∧ outside (Size.bytes .d) 0xFFFFFFFE#32 0xFFFFFFFD#32 := by
  decide

theorem witness_StepRunsDecodedInstruction :
    (stackNext State.reset ∧ State.reset.stack.serviced State.reset.par.ieMask = false ∧
      State.reset.stack.timesmode = false) ∧
    ((∃ m, mnemonicOf (.br (.d1 16)) = some m ∧ m ∉ State.reset.par.unimplemented) ∧ mnemonicOf (.undefinedF3 0 1 .b) = none ∧
      State.reset.par.unimplemented = Config.defaults.unimplemented ∧
      (missingState [] [.nop]).par.unimplemented ≠ Config.defaults.unimplemented ∧ .br ∉ (missingState [] [.nop]).par.unimplemented) ∧
    regNext (regState [(0x2000, 0xEA), (0x2001, 0x10)] id) ∧
    (wellFormed (.br (.d1 16)) = true ∧ encode (.br (.d1 16)) = .bytes [0xEA, 0x10] ∧
      ∀ k, (h : k < [0xEA#8, 0x10#8].length) → (regState [(0x2000, 0xEA), (0x2001, 0x10)] id).reg.byteAt
        ((regState [(0x2000, 0xEA), (0x2001, 0x10)] id).reg.pc + BitVec.ofNat 32 k) = [0xEA#8, 0x10#8][k]) ∧
    (decoded (regState [(0x2000, 0xEA), (0x2001, 0x10)] id).reg.fetched).map (fun x => x.1) = some (.br (.d1 16)) := by
  refine ⟨by decide, ⟨⟨.br, by decide, by decide⟩, by decide, by decide, by decide, by decide⟩, by decide,
    ⟨by decide, by decide, ?_⟩, by decide⟩
  intro k h
  have : k = 0 ∨ k = 1 := by simp at h; omega
  rcases this with rfl | rfl <;> rfl

theorem witness_CoresShareNothing :
    (idle.script = [] ∧ idle.turn = .stack ∧ ∃ t, step idle = .next t) ∧
    ((regState [(0x2000, 0xA2)] id).script = [] ∧ (regState [(0x2000, 0xA2)] id).turn = .reg ∧
      ∃ t, step (regState [(0x2000, 0xA2)] id) = .next t) :=
  ⟨⟨rfl, rfl, next_of_goes (by decide)⟩, rfl, rfl, next_of_goes (by decide)⟩

/-- A StackCPU with a request latched. -/
def irqState (tri : BitVec 5) : State :=
  stackState [(0x1000, 0x8000)] (fun c => { c with xtri := tri, intreq := true, carry := true })

/-- The same in TIMES, the saved word being `pc` itself. -/
def irqTimesState (pc : Word) : State :=
  stackState [] (fun c => { c with pc := pc, xtri := 0x10, intreq := true, timesmode := true })

/-- Outside TIMES; in TIMES with a saved word of 0, 2 and 1 (1 in two ways: bit 15 of `pc` is not saved). -/
theorem witness_InterruptEntry :
    (stackNext (irqState 0x10) ∧ (irqState 0x10).stack.intreq = true ∧
      (irqState 0x10).stack.xtri &&& (irqState 0x10).par.ieMask ≠ 0 ∧ (irqState 0x10).stack.timesmode = false) ∧
    (stackNext (irqTimesState 0x8001) ∧ (irqTimesState 0x8001).stack.intreq = true ∧
      (irqTimesState 0x8001).stack.xtri &&& (irqTimesState 0x8001).par.ieMask ≠ 0 ∧
      (irqTimesState 0x8001).stack.timesmode = true) ∧
    ([0x0000#16, 0x0001, 0x8001, 0x0002].map fun pc => (irqTimesState pc).stack.carry.toNat * 32768 +
      (irqTimesState pc).stack.pc.toNat % 32768) = [0, 1, 1, 2] := by decide

theorem witness_InterruptStaysLatched :
    (stackNext (irqState 0x0F) ∧ (irqState 0x0F).stack.serviced (irqState 0x0F).par.ieMask = false ∧
      ∃ t, step (irqState 0x0F) = .next t) ∧
    (stackNext idle ∧ idle.stack.serviced idle.par.ieMask = false ∧ ∃ t, step idle = .next t) :=
  ⟨⟨by decide, by decide, next_of_goes (by decide)⟩, by decide, by decide, next_of_goes (by decide)⟩

/-- A StackCPU in TIMES with a count. -/
def timesState (count : Word) : State := stackState [] (fun c => { c with i := count, timesmode := true })

theorem witness_TimesPhase :
    (stackNext (timesState 1) ∧ (timesState 1).stack.serviced (timesState 1).par.ieMask = false ∧
      (timesState 1).stack.timesmode = true ∧ (timesState 1).stack.i = 1) ∧
    (stackNext (timesState 0) ∧ (timesState 0).stack.serviced (timesState 0).par.ieMask = false ∧
      (timesState 0).stack.timesmode = true ∧ (timesState 0).stack.i ≠ 1) ∧ (timesState 2).stack.i ≠ 1 := by decide

theorem witness_AluClassCompletes :
    ((⟨.n, true, true, true, true, false, .none⟩ : AluOpts).step = true → writesCarry .suby = true) ∧
    ((⟨.n, true, true, true, false, false, .none⟩ : AluOpts).step = true → writesCarry .t = true) := by decide

theorem witness_RefusedEncodings :
    (0x8008#16 &&& 0xF008 = 0x8008 ∧ (0x8008#16 &&& 0x0E00 ≠ 0x0400 ∧ 0x8008#16 &&& 0x0E00 ≠ 0x0800 ∧
      0x8008#16 &&& 0x0E00 ≠ 0x0C00)) ∧
    (0xD180#16 &&& 0xF180 = 0xD180 ∧ 0xDFFF#16 &&& 0xF180 = 0xD180) ∧
    (0x8808#16 &&& 0xF008 = 0x8008 ∧ 0x8808#16 &&& 0xF180 ≠ 0xD180 ∧ 0x8808#16 &&& 0x0E00 = 0x0800) ∧
    (0xD100#16 &&& 0xF008 ≠ 0x8008 ∧ 0xD100#16 &&& 0xF180 ≠ 0xD180) := by decide

theorem witness_ShiftMicroStep :
    (irqState 0).stack.carry = true ∧ ((irqState 0).stack.shift true .right).t = 0x8000 ∧
    ((irqState 0).stack.shift false .left).t = 1 := by decide

theorem witness_ReturnBit :
    (irqState 0).stack.timesmode = false ∧ (timesState 2).stack.timesmode = true := by decide

/-- A RegisterCPU with a stack, a status word and two registers set. -/
def work (p : Word) : State :=
  regState [(0x2000, 0xA2), (0x3000, 0x41), (0x3001, 0), (0x3002, 0), (0x3003, 0), (0x9000, 0x05), (0x9001, 0xA2)]
    (fun c => { c with r := #v[0x80, 0x3000, 0x3000, 0, 0x41, 0, 0, 0], sp0 := 0x9000, psr := p })

theorem witness_SubroutineCallAndReturn : outside 4 0xFFFFFFFE#32 2#32 ∧ outside 4 0xFFFFFFFE#32 0xFFFFFFFD#32 := by decide

theorem witness_ExternalCallAndReturn :
    Size.b ≠ .undef ∧ (work 0).reg.resolve (.rel 1 (.d1 8)) = .ok (.mem 0x3008) ∧ (work 0).reg.addrOf (.mem 0x3008) = .ok 0x3008 ∧
    (work 0).reg.resolve .tos = .ok .tos ∧ (work 0).reg.addrOf .tos = .ok 0x9000 := ⟨by decide, rfl, rfl, rfl, rfl⟩

theorem witness_SaveAndRestore :
    (0x80#8).getLsbD (7 : Fin 8) = true ∧ (0x01#8).getLsbD (0 : Fin 8) = true ∧
    outside (4 * setBits 0x81#8 fun _ => true) 0x8FF8#32 0x9000#32 := by decide

theorem witness_EnterAndExit :
    (Disp.d4 0x1FFFFFFF).value.toNat < 536870912 ∧ (Disp.d1 0).value.toNat < 536870912 ∧ (0x80#8).getLsbD (7 : Fin 8) = true ∧
    outside 4 0x8FFC#32 0x9000#32 ∧ outside (4 * setBits 0x81#8 fun _ => true) 0x8FF4#32 0x9000#32 := by decide

theorem witness_TrapEntryState : outside 8 ((work 0).reg.sp0 - 8) 0x9000#32 ∧ outside 8 ((work 0).reg.sp0 - 8) 0x8FF7#32 := by
  decide

theorem witness_NopWaitFlagSvcBpt : psrBit (work 0x20).reg.psr 5 = true ∧ psrBit (work 0xFFDF).reg.psr 5 = false := by decide

theorem witness_TrapReturnState : (work 0xFEFF).reg.user = false := by decide

theorem witness_PrivilegedOperationsTrapInUserMode :
    userMode (work 0x100) ∧ (work 0x100).reg.resolve (.imm (.b 1)) = .ok (.imm 1) ∧ Size.b ≠ .undef :=
  ⟨by decide, rfl, by decide⟩

theorem witness_UserModeKeepsProtectedState :
    (regNext (work 0x100) ∧ userMode (work 0x100) ∧ ∃ t, step (work 0x100) = .next t) ∧
    (∃ t, step { work 0x100 with reg := { (work 0x100).reg with pc := 0x9001 } } = .next t) :=
  ⟨⟨by decide, by decide, next_of_goes (by decide)⟩, next_of_goes (by decide)⟩

/-- Operands that resolve: two registers, a popped source with a destination in place, each at the smallest and largest
size. -/
theorem witness_two_operands :
    (Size.b ≠ .undef ∧ wfGens .b .b (.reg 1) (.reg 1) = true ∧ (work 0).reg.resolve (.reg 1) = .ok (.reg 1) ∧
      asDest (.reg 1) = .ok (.reg 1)) ∧
    (Size.d ≠ .undef ∧ wfGens .d .d .tos .tos = true ∧ (work 0).reg.resolve .tos = .ok .tos ∧ asDest .tos = .ok .tos) :=
  ⟨⟨by decide, by decide, rfl, rfl⟩, by decide, by decide, rfl, rfl⟩

theorem witness_AddSubtractComplete :
    Size.w ≠ .undef ∧ wfGens .w .w (.imm (.w 0xFFFF)) (.reg 1) = true ∧
    (work 1).reg.resolve (.imm (.w 0xFFFF)) = .ok (.imm 0xFFFF) ∧ (work 1).reg.resolve (.reg 1) = .ok (.reg 1) ∧
    asDest (.reg 1) = .ok (.reg 1) := ⟨by decide, by decide, rfl, rfl, rfl⟩

theorem witness_LogicAndMultiplyComplete :
    Size.d ≠ .undef ∧ wfGens .d .d (.reg 0) (.rel 1 (.d1 0)) = true ∧ (work 0).reg.resolve (.reg 0) = .ok (.reg 0) ∧
    (work 0).reg.resolve (.rel 1 (.d1 0)) = .ok (.mem 0x3000) ∧ asDest (.mem 0x3000) = .ok (.mem 0x3000) :=
  ⟨by decide, by decide, rfl, rfl, rfl⟩

theorem witness_ComparesComplete :
    Size.b ≠ .undef ∧ (work 0).reg.resolve .tos = .ok .tos ∧ (work 0).reg.resolve (.imm (.b 5)) = .ok (.imm 5) :=
  ⟨by decide, rfl, rfl⟩

theorem witness_MovesComplete :
    Size.d ≠ .undef ∧ wfGens .d .d .tos .tos = true ∧ (work 0).reg.resolve .tos = .ok .tos ∧ asDest .tos = .ok .tos ∧
    Size.d = .d ∧ (work 0).reg.addrOf .tos = .ok 0x9000 := ⟨by decide, by decide, rfl, rfl, rfl, rfl⟩

theorem witness_ExtendingMovesComplete :
    (work 0).reg.resolve (.reg 0) = .ok (.reg 0) ∧ (work 0).reg.resolve .tos = .ok .tos ∧ asDest .tos = .ok .tos ∧
    wfGens .b .w (.reg 0) .tos = true ∧ (Size.b = .b ∨ Size.b = .w) ∧ wfGens .b .d (.reg 0) .tos = true ∧
    (Size.w = .b ∨ Size.w = .w) ∧ wfGens .w .d (.reg 0) .tos = true :=
  ⟨rfl, rfl, rfl, by decide, by decide, by decide, by decide, by decide⟩

theorem witness_UnaryOperationsComplete :
    Size.b ≠ .undef ∧ wfGens .b .b (.reg 0) (.reg 0) = true ∧ (work 0).reg.resolve (.reg 0) = .ok (.reg 0) ∧
    asDest (.reg 0) = .ok (.reg 0) ∧ signedOf .b ((work 0).reg.srcValue .b (.reg 0)) = -2 ^ (Size.bits .b - 1) :=
  ⟨by decide, by decide, rfl, rfl, by decide⟩

theorem witness_QuickArithmeticCompletes :
    Size.b ≠ .undef ∧ (work 0).reg.resolve (.reg 0) = .ok (.reg 0) ∧ asDest (.reg 0) = .ok (.reg 0) ∧
    Size.d ≠ .undef ∧ (work 0).reg.resolve .tos = .ok .tos ∧ asDest .tos = .ok .tos :=
  ⟨by decide, rfl, rfl, by decide, rfl, rfl⟩

theorem witness_ShiftsComplete :
    Size.d ≠ .undef ∧ wfGens .b .d (.reg 0) (.reg 1) = true ∧ (work 0).reg.resolve (.reg 0) = .ok (.reg 0) ∧
    (work 0).reg.resolve (.reg 1) = .ok (.reg 1) ∧ asDest (.reg 1) = .ok (.reg 1) ∧
    signedOf .b ((work 0).reg.srcValue .b (.reg 0)) = -128 := ⟨by decide, by decide, rfl, rfl, rfl, by decide⟩

theorem witness_BitInstructionsComplete :
    Size.b ≠ .undef ∧ (work 0).reg.resolve (.reg 0) = .ok (.reg 0) ∧ (work 0).reg.resolve .tos = .ok .tos ∧
    asDest .tos = .ok .tos ∧ (work 0).reg.resolve (.reg 1) = .ok (.reg 1) ∧ asDest (.reg 1) = .ok (.reg 1) :=
  ⟨by decide, rfl, rfl, rfl, rfl, rfl⟩

theorem witness_DivisionsComplete :
    Size.b ≠ .undef ∧ wfGens .b .b (.imm (.b 0xFF)) (.reg 0) = true ∧
    (work 0).reg.resolve (.imm (.b 0xFF)) = .ok (.imm 0xFF) ∧ (work 0).reg.resolve (.reg 0) = .ok (.reg 0) ∧
    asDest (.reg 0) = .ok (.reg 0) ∧ signedOf .b ((work 0).reg.srcValue .b (.imm 0xFF)) ≠ 0 :=
  ⟨by decide, by decide, rfl, rfl, rfl, by decide⟩

theorem witness_DivisionByZeroTraps :
    Size.b ≠ .undef ∧ wfGens .b .b (.reg 3) (.reg 0) = true ∧ (work 0).reg.resolve (.reg 3) = .ok (.reg 3) ∧
    (work 0).reg.resolve (.reg 0) = .ok (.reg 0) ∧ asDest (.reg 0) = .ok (.reg 0) ∧ (work 0).reg.srcValue .b (.reg 3) = 0 :=
  ⟨by decide, by decide, rfl, rfl, rfl, by decide⟩

theorem witness_StoreProcessorRegisterCompletes :
    Size.b ≠ .undef ∧ (work 0).reg.resolve .tos = .ok .tos ∧ asDest .tos = .ok .tos ∧ (work 0).reg.user = false :=
  ⟨by decide, rfl, rfl, by decide⟩

theorem witness_LoadProcessorRegisterCompletes :
    Size.w ≠ .undef ∧ wfGen .w .tos = true ∧ (work 0x200).reg.resolve .tos = .ok .tos ∧ (work 0x200).reg.user = false :=
  ⟨by decide, by decide, rfl, by decide⟩

theorem witness_StatusUpdatesComplete :
    (work 0).reg.resolve .tos = .ok .tos ∧ (work 0).reg.user = false ∧ Size.d ≠ .undef := ⟨rfl, by decide, by decide⟩

theorem witness_JumpsAndAdjustComplete :
    Size.d ≠ .undef ∧ (work 0).reg.resolve .tos = .ok .tos ∧ (work 0).reg.addrOf .tos = .ok 0x9000 ∧
    outside 4 0x8FFC#32 0x9000#32 ∧ (work 0).reg.resolve (.reg 7) = .ok (.reg 7) ∧
    (work 0).reg.resolve (.imm (.d 0)) = .ok (.imm 0) := ⟨by decide, rfl, rfl, by decide, rfl, rfl⟩

/-- A zero count; a byte that meets the condition (until match of 41); one that does not and differs from the second; equal
elements with no condition. -/
theorem witness_StringStepsComplete :
    (stringDefined 0b1100 .b = true ∧ decide ((regState [] id).reg.reg 0 = 0) = true) ∧
    (decide ((work 0).reg.reg 0 = 0) = false ∧ (work 0).reg.memRead ((work 0).reg.reg 1) .b = lowBits .b ((work 0).reg.reg 4)) ∧
    (stringDefined 0 .d = true ∧ (work 0).reg.memRead ((work 0).reg.reg 1) .d = (work 0).reg.memRead ((work 0).reg.reg 2) .d) ∧
    ((regState [(0, 1), (1, 0)] (fun c => { c with r := #v[1, 0, 1, 0, 0, 0, 0, 0] })).reg.memRead 0 .b ≠
      (regState [(0, 1), (1, 0)] (fun c => { c with r := #v[1, 0, 1, 0, 0, 0, 0, 0] })).reg.memRead 1 .b) := by decide

theorem witness_OperandFaults :
    Size.b ≠ .undef ∧ Size.d ≠ .undef ∧ (work 0).reg.resolve (.reg 0) = .ok (.reg 0) ∧ (work 0).reg.resolve .tos = .ok .tos ∧
    (work 0).reg.user = false ∧ (work 0x100).reg.user = true ∧ ((12 : BitVec 4) ≠ 13 ∧ (12 : BitVec 4) ≠ 14) :=
  ⟨by decide, by decide, rfl, rfl, by decide, by decide, by decide⟩

theorem witness_GeneralOperandsResolve :
    Size.b ≠ .undef ∧ Size.w ≠ .undef ∧ Size.d ≠ .undef ∧ outside 4 0xFFFFFFFE#32 2#32 ∧ ((7 : Fin 8) ≠ 0) ∧
    (Size.bits .w ≤ 16 ∧ 1 < Size.bytes .w) := by decide

theorem witness_ConditionsAfterCompare :
    (Size.b ≠ .undef ∧ wfGens .b .b (.imm (.b 0x80)) .tos = true ∧
      (work 0).reg.resolve (.imm (.b 0x80)) = .ok (.imm 0x80) ∧ (work 0).reg.resolve .tos = .ok .tos) ∧
    (Size.d ≠ .undef ∧ wfGens .d .d (.reg 1) (.reg 2) = true ∧ (work 0).reg.resolve (.reg 1) = .ok (.reg 1) ∧
      (work 0).reg.resolve (.reg 2) = .ok (.reg 2)) := ⟨⟨by decide, by decide, rfl, rfl⟩, by decide, by decide, rfl, rfl⟩

/-- Each clause at a boundary: the undefined stop code, the undefined size, translation of words; each size that is left out;
the lowest and the highest unassigned code. -/
theorem witness_UndefinedInstructionsTrap :
    (0x8#4 &&& 0xC = 0x8 ∧ 0xB#4 &&& 0xC = 0x8) ∧ (0x1#4 &&& 0x1 = 0x1 ∧ Size.w ≠ .b) ∧ (Size.b ≠ .d ∧ Size.undef ≠ .d) ∧
    (Size.d ≠ .b ∧ Size.undef ≠ .b) ∧ ((1 : BitVec 4) ∈ [1, 2, 3, 4, 5, 6, 7, 11, (12 : BitVec 4)]) ∧
    ((12 : BitVec 4) ∈ [1, 2, 3, 4, 5, 6, 7, 11, (12 : BitVec 4)]) ∧ Size.b ≠ .undef ∧
    (work 0).reg.resolve .tos = .ok .tos := ⟨by decide, by decide, by decide, by decide, by decide, by decide, by decide, rfl⟩

/-- `NOP` in the set; `MOVM` in the default set. -/
theorem witness_UnimplementedInstructionsStop :
    (regNext (missingState [(0x2000, 0xA2)] [.nop]) ∧
      (decoded (missingState [(0x2000, 0xA2)] [.nop]).reg.fetched).map (fun x => x.1) = some .nop) ∧
    mnemonicOf .nop = some .nop ∧ RegMnemonic.nop ∈ (missingState [] [.nop]).par.unimplemented ∧
    mnemonicOf (.movm .d (.reg 0) (.reg 0)) = some .movm ∧ RegMnemonic.movm ∈ State.reset.par.unimplemented := by decide

end Sys2Proof.Tests
end

section
/-!
The return-bit post-process (R183) and the return word it takes apart.
-/
namespace Sys2Proof.Proofs
open Sys2Proof Sys2Proof.Machine

/-! ## The return word -/

/-- The zero-extended low 15 bits of a word, the `pc` part of a return word, as a number. -/
theorem toNat_low15 (w : Word) : ((w.setWidth 15).setWidth 16).toNat = w.toNat % 32768 := by
  have hlow : w.toNat % 32768 < 65536 := by omega
  simp [BitVec.toNat_setWidth, Nat.mod_eq_of_lt hlow]

/-- Bit 15 of a word, the `carry` part of a return word, as a number. -/
theorem toNat_bit15 (w : Word) : (w.getLsbD 15).toNat = w.toNat / 32768 := by
  have hbit : (w.getLsbD 15).toNat = w.toNat / 32768 % 2 := by simp [BitVec.getLsbD, Nat.toNat_testBit]
  have hw : w.toNat < 65536 := w.isLt
  omega

/-! ## The post-process -/

theorem retPost_eq_self {c : StackCpu} {ret : Bool} (h : ret = false ∨ c.timesmode = true) : c.retPost ret = c := by
  rcases h with hret | htimes
  · simp [StackCpu.retPost, hret]
  · simp [StackCpu.retPost, htimes]

/-- With the bit set outside TIMES: `pc` and `carry` are the two parts of the old `i`, over a pop of the return stack. -/
theorem retPost_true {c : StackCpu} (h : c.timesmode = false) :
    c.retPost true = { c.rPop with pc := (c.i.setWidth 15).setWidth 16, carry := c.i.getLsbD 15 } := by
  simp [StackCpu.retPost, h]

/-- Settles O22: the post-process is read off its two equations, and the old `i` is `carry` times 2^15 plus `pc` because these
are its quotient and its remainder by 2^15. -/
theorem returnBit : Obligations.ReturnBit := by
  intro c ret
  refine ⟨retPost_eq_self, ?_⟩
  rintro rfl htimes
  refine ⟨_, retPost_true htimes, rfl, ?_, ?_⟩
  · rw [toNat_bit15, toNat_low15]
    exact (Nat.div_add_mod' _ _).symm
  · rw [toNat_low15]
    exact Nat.mod_lt _ (by decide)

end Sys2Proof.Proofs
end

section
/-!
The memory fetches and stores (R230 to R236). What a fold over a pop and a fold over a push do to
the data registers is said once, of any StackCPU; the folding instructions then each end in one of these states.
-/
namespace Sys2Proof.Proofs
open Sys2Proof Sys2Proof.Machine Sys2Proof.Laws

/-! ## The data state after a fold -/

theorem onlyData_fold {c u : StackCpu} (h : OnlyData c u) (op : AluOp) (a y : Word) (cin : Bool) :
    OnlyData c (u.fold op a y cin) :=
  (congrArg (fun x : StackCpu => x.fold op a y cin) h :)

/-- A fold leaves `n`, `k` and the data stack alone, so what was popped before it stays popped. -/
theorem popped_fold {c u : StackCpu} {tn : Bool} (h : Popped c u tn) (op : AluOp) (a y : Word) (cin : Bool) :
    Popped c (u.fold op a y cin) tn :=
  h

theorem folded_fold {c u : StackCpu} (h : u.carry = c.carry) (op : AluOp) (a y : Word) (cin : Bool) :
    Folded c (u.fold op a y cin) op a y cin :=
  ⟨fold_t u op a y cin, by rw [fold_carry, h]⟩

/-! ## The data state after a pop or a push -/

theorem onlyData_dPopN (c : StackCpu) : OnlyData c c.dPopN := rfl

theorem popped_dPopN (c : StackCpu) : Popped c c.dPopN true :=
  ⟨dPopN_ds c, dPopN_k c, dPopN_n c⟩

/-- The fold reads neither `n` nor `k`, and the pop neither `t` nor `carry`: R233 folds first, R235 and R236 pop first. -/
theorem dPopN_fold (c : StackCpu) (op : AluOp) (a y : Word) (cin : Bool) :
    (c.fold op a y cin).dPopN = c.dPopN.fold op a y cin := rfl

/-- A pop and a fold together, with operands from before the pop. -/
theorem dPopN_fold_completes (c : StackCpu) (op : AluOp) (a y : Word) :
    OnlyData c (c.dPopN.fold op a y false) ∧ Popped c (c.dPopN.fold op a y false) true ∧
      Folded c (c.dPopN.fold op a y false) op a y false :=
  ⟨onlyData_fold (onlyData_dPopN c) .., popped_fold (popped_dPopN c) .., folded_fold (dPopN_carry c) ..⟩

/-- The word `v` pushed under `t`: the old `n` goes to the data stack, `v` to `n` (R232). -/
def pushUnder (c : StackCpu) (v : Word) : StackCpu := { c.dPushN with n := v }

/-- A push under `t` and a fold together. -/
theorem pushUnder_fold_completes (c : StackCpu) (v : Word) (op : AluOp) (a y : Word) :
    let u := (pushUnder c v).fold op a y false
    OnlyData c u ∧ u.n = v ∧ u.k = c.k - 1 ∧ WroteDs c u c.k c.n ∧ Folded c u op a y false :=
  ⟨onlyData_fold (u := pushUnder c v) rfl .., rfl, rfl, wroteDs_cellWrite _ _ _ _ (dPushN_ds c),
    folded_fold (u := pushUnder c v) rfl ..⟩

/-! ## The four skeletons -/

/-- `MFETCHX` (R232). -/
theorem fetchStep_eq (c : StackCpu) (op : AluOp) (ret : Bool) (lit : BitVec 5) :
    c.fetchStep op ret lit =
      ((pushUnder c (c.progRead c.t)).fold op c.t (BitVec.ofNat 16 lit.toNat) false).retPost ret := by
  rw [BitVec.ofNat_toNat]; rfl

/-- `MFETCH` with `tn` (R233): the word fetched takes the place of `t` in the evaluator, and the old `n` is dropped. -/
theorem fetchMem_true (c : StackCpu) (op : AluOp) (ret : Bool) :
    c.fetchMem op true ret = (c.dPopN.fold op (c.progRead c.t) c.n false).retPost ret :=
  congrArg (·.retPost ret) (dPopN_fold c op (c.progRead c.t) c.n false)

/-- `MFETCH` without `tn` (R233). -/
theorem fetchMem_false (c : StackCpu) (op : AluOp) (ret : Bool) :
    c.fetchMem op false ret = { c with t := c.progRead c.t }.retPost ret := rfl

/-- `MSTOREX` (R235). -/
theorem storeStep_eq (c : StackCpu) (op : AluOp) (ret : Bool) (lit : BitVec 5) :
    c.storeStep op ret lit =
      ((c.progWrite c.t c.n).dPopN.fold op c.t (BitVec.ofNat 16 lit.toNat) false).retPost ret := by
  rw [BitVec.ofNat_toNat]; rfl

/-- `MSTORE` with `tn` (R236). -/
theorem storeMem_true (c : StackCpu) (op : AluOp) (ret : Bool) :
    c.storeMem op true ret = ((c.progWrite c.t c.n).dPopN.fold op c.t c.n false).retPost ret := rfl

/-- `MSTORE` without `tn` (R236). -/
theorem storeMem_false (c : StackCpu) (op : AluOp) (ret : Bool) :
    c.storeMem op false ret = (c.progWrite c.t c.n).retPost ret := rfl

/-- What `MFETCH` does before the return bit (R233), in both forms. -/
theorem fetchMem_completes (c : StackCpu) (op : AluOp) (tn ret : Bool) :
    ∃ u : StackCpu, OnlyData c u ∧ Popped c u tn ∧
      (if tn then Folded c u op (c.progRead c.t) c.n false else u.t = c.progRead c.t ∧ u.carry = c.carry) ∧
      c.fetchMem op tn ret = u.retPost ret := by
  cases tn with
  | true =>
    obtain ⟨hdata, hpopped, hfolded⟩ := dPopN_fold_completes c op (c.progRead c.t) c.n
    exact ⟨_, hdata, hpopped, hfolded, fetchMem_true c op ret⟩
  | false => exact ⟨{ c with t := c.progRead c.t }, rfl, ⟨rfl, rfl, rfl⟩, ⟨rfl, rfl⟩, fetchMem_false c op ret⟩

/-- What `MSTORE` does after the store and before the return bit (R236), in both forms. -/
theorem storeMem_completes (c : StackCpu) (op : AluOp) (tn ret : Bool) :
    ∃ u : StackCpu, OnlyData (c.progWrite c.t c.n) u ∧ Popped (c.progWrite c.t c.n) u tn ∧
      (if tn then Folded (c.progWrite c.t c.n) u op c.t c.n false else u.t = c.t ∧ u.carry = c.carry) ∧
      c.storeMem op tn ret = u.retPost ret := by
  cases tn with
  | true =>
    obtain ⟨hdata, hpopped, hfolded⟩ := dPopN_fold_completes (c.progWrite c.t c.n) op c.t c.n
    exact ⟨_, hdata, hpopped, hfolded, storeMem_true c op ret⟩
  | false => exact ⟨c.progWrite c.t c.n, rfl, ⟨rfl, rfl, rfl⟩, ⟨rfl, rfl⟩, storeMem_false c op ret⟩

/-! ## The instructions -/

theorem exec_mfetchx (op : AluOp) (tn ret : Bool) (lit5 : BitVec 5) (s : State) :
    exec (.mfetchx op tn ret lit5) s = .next { s with stack := s.stack.fetchStep op ret lit5 } := rfl

theorem exec_mstorex (op : AluOp) (tn ret : Bool) (lit5 : BitVec 5) (s : State) :
    exec (.mstorex op tn ret lit5) s = .next { s with stack := s.stack.storeStep op ret lit5 } := rfl

/-- The three general encodings of `MFETCH` do not differ (R230). -/
theorem exec_mfetch (op : AluOp) (tn ret : Bool) (lit5 : BitVec 5) (s : State) :
    let out : Out := .next { s with stack := s.stack.fetchMem op tn ret }
    exec (.mfetch0 op tn ret lit5) s = out ∧ exec (.mfetch1 op tn ret lit5) s = out ∧
      exec (.mfetch2 op tn ret lit5) s = out :=
  ⟨rfl, rfl, rfl⟩

/-- The three general encodings of `MSTORE` do not differ (R230). -/
theorem exec_mstore (op : AluOp) (tn ret : Bool) (lit5 : BitVec 5) (s : State) :
    let out : Out := .next { s with stack := s.stack.storeMem op tn ret }
    exec (.mstore0 op tn ret lit5) s = out ∧ exec (.mstore1 op tn ret lit5) s = out ∧
      exec (.mstore2 op tn ret lit5) s = out :=
  ⟨rfl, rfl, rfl⟩

/-- Settles O27: `MFETCHX` is a push under the pointer and a fold; `MFETCH` is taken apart by `tn` in `fetchMem_completes`. -/
theorem memoryFetchesComplete : Obligations.MemoryFetchesComplete := by
  intro s op tn ret lit5
  constructor
  · refine ⟨_, ?_, pushUnder_fold_completes s.stack _ op s.stack.t _⟩
    rw [exec_mfetchx, fetchStep_eq]
  · obtain ⟨u, hdata, hpopped, hfolded, hret⟩ := fetchMem_completes s.stack op tn ret
    exact ⟨u, hdata, hpopped, hfolded, hret ▸ exec_mfetch op tn ret lit5 s⟩

/-- Settles O28: the core after the store alone is the base of both forms; `MSTOREX` is a pop and a fold over it, `MSTORE` is
taken apart by `tn` in `storeMem_completes`. -/
theorem memoryStoresComplete : Obligations.MemoryStoresComplete := by
  intro s op tn ret lit5
  refine ⟨s.stack.progWrite s.stack.t s.stack.n, rfl, fun w => progRead_progWrite _ _ _ _, ?_, ?_⟩
  · refine ⟨_, ?_, dPopN_fold_completes (s.stack.progWrite s.stack.t s.stack.n) op s.stack.t _⟩
    rw [exec_mstorex, storeStep_eq]
  · obtain ⟨u, hdata, hpopped, hfolded, hret⟩ := storeMem_completes s.stack op tn ret
    exact ⟨u, hdata, hpopped, hfolded, hret ▸ exec_mstore op tn ret lit5 s⟩

end Sys2Proof.Proofs
end

section
/-!
The first byte of a displacement (R242 to R244): its range fixes its first two bits, the length it announces and the form
that is decoded.
-/
namespace Sys2Proof.Proofs
open Sys2Proof

/-! ## The first two bits of a byte -/

theorem byte_bit7 {b : Byte} : b.getLsbD 7 = true ↔ 128 ≤ b.toNat := by
  have hb : b.toNat < 256 := b.isLt
  rw [BitVec.getLsbD, Nat.testBit_eq_decide_div_mod_eq, decide_eq_true_eq]
  omega

/-- Bit 6 parts the upper half of the byte's range. -/
theorem byte_bit6 {b : Byte} (h : 128 ≤ b.toNat) : b.getLsbD 6 = true ↔ 192 ≤ b.toNat := by
  have hb : b.toNat < 256 := b.isLt
  rw [BitVec.getLsbD, Nat.testBit_eq_decide_div_mod_eq, decide_eq_true_eq]
  omega

/-! ## The length announced -/

theorem dispSize_low {b0 : Byte} (h : b0.toNat < 128) : dispSize b0 = 1 := if_pos h

theorem dispSize_mid {b0 : Byte} (hlo : 128 ≤ b0.toNat) (hhi : b0.toNat < 192) : dispSize b0 = 2 := by
  rw [dispSize, if_neg (Nat.not_lt.mpr hlo), if_pos hhi]

theorem dispSize_high {b0 : Byte} (h : 192 ≤ b0.toNat) : dispSize b0 = 4 := by
  rw [dispSize, if_neg (by omega), if_neg (Nat.not_lt.mpr h)]

/-- The table of R242: `0` announces one byte, `10` two, `11` four. -/
theorem dispSize_eq_ite_bits (b0 : Byte) :
    dispSize b0 = if b0.getLsbD 7 then (if b0.getLsbD 6 then 4 else 2) else 1 := by
  rcases Nat.lt_or_ge b0.toNat 128 with hlow | hupper
  · rw [dispSize_low hlow, if_neg (mt byte_bit7.mp (Nat.not_le.mpr hlow))]
  rw [if_pos (byte_bit7.mpr hupper)]
  rcases Nat.lt_or_ge b0.toNat 192 with hmid | hhigh
  · rw [dispSize_mid hupper hmid, if_neg (mt (byte_bit6 hupper).mp (Nat.not_le.mpr hmid))]
  · rw [dispSize_high hhigh, if_pos ((byte_bit6 hupper).mpr hhigh)]

/-! ## The form decoded -/

/-- What a successful decode can be (R243): the range of the first byte fixes the form of the displacement and how many bytes
follow the first one. -/
theorem decodeDisp_cons_ok {b0 : Byte} {bs rest : List Byte} {d : Disp} (h : decodeDisp (b0 :: bs) = .ok (d, rest)) :
    (b0.toNat < 128 ∧ bs = rest ∧ ∃ v, d = .d1 v) ∨
    ((128 ≤ b0.toNat ∧ b0.toNat < 192) ∧ (∃ b1, bs = b1 :: rest) ∧ ∃ v, d = .d2 v) ∨
    (192 ≤ b0.toNat ∧ (∃ b1 b2 b3, bs = b1 :: b2 :: b3 :: rest) ∧ ∃ v, d = .d4 v) := by
  unfold decodeDisp at h
  dsimp only at h
  split at h
  case isTrue hlow =>
    cases h
    exact .inl ⟨hlow, rfl, _, rfl⟩
  case isFalse hupper =>
    split at h
    case isTrue hmid =>
      split at h <;> cases h
      exact .inr (.inl ⟨⟨Nat.not_lt.mp hupper, hmid⟩, ⟨_, rfl⟩, _, rfl⟩)
    case isFalse hhigh =>
      split at h <;> cases h
      exact .inr (.inr ⟨Nat.not_lt.mp hhigh, ⟨_, _, _, rfl⟩, _, rfl⟩)

/-- A decoded displacement has the length that its first byte announces (R244). -/
theorem decodeDisp_len {b0 : Byte} {bs rest : List Byte} {d : Disp} (h : decodeDisp (b0 :: bs) = .ok (d, rest)) :
    d.len = dispSize b0 := by
  obtain ⟨hlow, -, v, rfl⟩ | ⟨⟨hlo, hhi⟩, -, v, rfl⟩ | ⟨hhigh, -, v, rfl⟩ := decodeDisp_cons_ok h
  · exact (dispSize_low hlow).symm
  · exact (dispSize_mid hlo hhi).symm
  · exact (dispSize_high hhigh).symm

/-- Settles O5: the announced length and the decoded form both follow from which of three ranges the first byte is in. -/
theorem displacementLengthByFirstByte : Obligations.DisplacementLengthByFirstByte :=
  fun b0 => ⟨dispSize_eq_ite_bits b0, fun _ _ _ => decodeDisp_len⟩

end Sys2Proof.Proofs
end

section
/-!
Subroutine calls (R282, R283). What a push and a write of `SP` change is said once, through `SP` and the stack pointer that
`psr.S` does not select (R44, R249); undoing a push is then a write of the old `SP`.
-/
namespace Sys2Proof.Proofs
open Sys2Proof Sys2Proof.Machine Sys2Proof.Laws

/-! ## The two stack pointers -/

/-- The pointer not selected looks at `psr`, `sp[0]` and `sp[1]` only. -/
theorem otherSp_congr {c d : RegCpu} (hp : c.psr = d.psr) (h0 : c.sp0 = d.sp0) (h1 : c.sp1 = d.sp1) :
    c.otherSp = d.otherSp := by
  unfold RegCpu.otherSp; rw [hp, h0, h1]

/-- The selected pointer and the other one determine both stack pointers, whichever `psr.S` selects. -/
theorem eq_of_sp_otherSp {c d : RegCpu} (hrest : c = { d with sp0 := c.sp0, sp1 := c.sp1 }) (hsp : c.sp = d.sp)
    (hother : c.otherSp = d.otherSp) : c = d := by
  have hpsr : c.psr = d.psr := by rw [hrest]
  unfold RegCpu.sp at hsp
  unfold RegCpu.otherSp at hother
  rw [hpsr] at hsp hother
  rw [hrest]
  cases hS : psrBit d.psr bitS with
  | false =>
    have h0 : c.sp0 = d.sp0 := by simpa [hS] using hsp
    have h1 : c.sp1 = d.sp1 := by simpa [hS] using hother
    rw [h0, h1]
  | true =>
    have h1 : c.sp1 = d.sp1 := by simpa [hS] using hsp
    have h0 : c.sp0 = d.sp0 := by simpa [hS] using hother
    rw [h0, h1]

/-- A write of `SP` changes the stack pointers at most. -/
theorem setSp_eq (c : RegCpu) (v : DWord) :
    c.setSp v = { c with sp0 := (c.setSp v).sp0, sp1 := (c.setSp v).sp1 } := by
  apply RegCpu.ext <;> simp

@[simp] theorem setSp_otherSp (c : RegCpu) (v : DWord) : (c.setSp v).otherSp = c.otherSp := by
  cases hS : psrBit c.psr bitS <;> simp [RegCpu.otherSp, RegCpu.setSp, hS]

@[simp] theorem goto_otherSp (c : RegCpu) (a : DWord) : (c.goto a).otherSp = c.otherSp := rfl

@[simp] theorem goto_read32 (c : RegCpu) (a x : DWord) : (c.goto a).read32 x = c.read32 x := rfl

@[simp] theorem goto_byteAt (c : RegCpu) (a x : DWord) : (c.goto a).byteAt x = c.byteAt x := rfl

theorem goto_setSp (c : RegCpu) (a v : DWord) : (c.goto a).setSp v = (c.setSp v).goto a := by
  unfold RegCpu.setSp RegCpu.goto; split <;> rfl

/-! ## A push -/

/-- `Push32` changes the stack pointers and memory at most. -/
theorem push32_eq (c : RegCpu) (v : DWord) :
    c.push32 v = { c with sp0 := (c.push32 v).sp0, sp1 := (c.push32 v).sp1, mem := (c.push32 v).mem } := by
  apply RegCpu.ext <;> simp

@[simp] theorem push32_otherSp (c : RegCpu) (v : DWord) : (c.push32 v).otherSp = c.otherSp := by
  have hstore : (c.push32 v).otherSp = (c.setSp (c.sp - 4#32)).otherSp :=
    otherSp_congr (by simp) (memWrite_sp0 ..) (memWrite_sp1 ..)
  rw [hstore, setSp_otherSp]

/-- The dword pushed stands where `SP` then points. -/
@[simp] theorem read32_push32 (c : RegCpu) (v : DWord) : (c.push32 v).read32 (c.push32 v).sp = v := by
  rw [push32_sp]; exact read32_write32 ..

theorem byteAt_push32_outside (c : RegCpu) (v x : DWord) (h : outside 4 (c.push32 v).sp x) :
    (c.push32 v).byteAt x = c.byteAt x := by
  rw [push32_sp] at h
  have hstore : (c.push32 v).byteAt x = (c.setSp (c.sp - 4#32)).byteAt x := byteAt_memWrite_outside _ _ _ .d v h
  rw [hstore, byteAt_congr (setSp_mem _ _)]

/-- With the old `SP` back, only the dword in memory is left of a push. -/
theorem push32_setSp_sp (c : RegCpu) (v : DWord) : (c.push32 v).setSp c.sp = { c with mem := (c.push32 v).mem } := by
  apply eq_of_sp_otherSp
  · rw [setSp_eq, push32_eq]
  · rw [setSp_sp]; rfl
  · rw [setSp_otherSp, push32_otherSp]; rfl

/-! ## The instructions -/

/-- `BSR` (R282). -/
theorem exec_bsr (d : Disp) (s : State) :
    exec (.bsr d) s =
      .next { s with reg := (s.reg.push32 (s.reg.pc + BitVec.ofNat 32 (1 + d.len))).goto (s.reg.pc + d.value) } := rfl

/-- `RET` (R283): the pop and the displacement are one write of `SP`. -/
theorem exec_ret (d : Disp) (s : State) :
    exec (.ret d) s =
      .next { s with reg := (s.reg.setSp (s.reg.sp + 4 + d.value)).goto (s.reg.read32 s.reg.sp) } := by
  have hsp : s.reg.drop32.setSp (s.reg.drop32.sp + d.value) = s.reg.setSp (s.reg.sp + 4 + d.value) := by
    rw [drop32_sp]; exact setSp_setSp ..
  rw [← hsp]; rfl

/-- `RET 0` over a pushed return address undoes the push and goes there. -/
theorem exec_ret_zero_push32_goto (s : State) (c : RegCpu) (v a : DWord) :
    exec (.ret (.d1 0)) { s with reg := (c.push32 v).goto a } =
      .next { s with reg := { c with pc := v, mem := (c.push32 v).mem } } := by
  have hpop : ((c.push32 v).goto a).sp + 4 + (Disp.d1 0).value = c.sp := by simp [Disp.value]
  have hread : ((c.push32 v).goto a).read32 ((c.push32 v).goto a).sp = v := by
    rw [goto_read32, goto_sp, read32_push32]
  rw [exec_ret, hpop, hread, goto_setSp, push32_setSp_sp]
  rfl

/-- Settles O32: `BSR` is a push and a jump, so each part is a rule of the push, and `RET 0` undoes it; `RET` is a write of
`SP` and a jump. -/
theorem subroutineCallAndReturn : Obligations.SubroutineCallAndReturn := by
  intro s d
  constructor
  · refine ⟨_, exec_bsr d s, ?_, ?_, ?_, ?_, ?_, exec_ret_zero_push32_goto s s.reg _ _⟩
    · rw [push32_eq]; rfl
    · rw [goto_sp, push32_sp]; rfl
    · rw [goto_otherSp, push32_otherSp]
    · rw [goto_read32, goto_sp, read32_push32]
    · intro x hx
      rw [goto_sp] at hx
      rw [goto_byteAt, byteAt_push32_outside _ _ _ hx]
  · refine ⟨_, exec_ret d s, ?_, ?_, ?_⟩
    · rw [setSp_eq]; rfl
    · rw [goto_sp, setSp_sp]
    · rw [goto_otherSp, setSp_otherSp]

end Sys2Proof.Proofs
end

section
/-!
The encoding round trips (R100 to R137, R245). What the front of a code decodes to is said once for each encoding format; a
well-formed instruction then only names its format and the arm of the decoder that its opcode selects.
-/
namespace Sys2Proof.Proofs
open Sys2Proof Sys2Proof.Laws

/-- The code decodes to the instruction; of a byte stream it takes exactly its own bytes (R101, R120). -/
def DecodesTo (i : Instr) : Code → Prop
  | .word w => decodeWord w = i
  | .bytes bs => ∀ rest, decodeBytes (bs ++ rest) = .ok (i, rest)

/-! ## StackCPU words: fields -/

theorem aluOp_ofCode {k : Nat} (h : k < 8) : (AluOp.ofCode k).code = k := by interval_cases k <;> rfl

theorem ySrc_ofCode {k : Nat} (h : k < 4) : (YSrc.ofCode k).code = k := by interval_cases k <;> rfl

theorem shiftCode_ofCode {k : Nat} (h : k < 4) : (ShiftCode.ofCode k).code = k := by interval_cases k <;> rfl

theorem bits_lt (w hi lo : Nat) : bits w hi lo < 2 ^ (hi + 1 - lo) := Nat.mod_lt _ (by positivity)

theorem flagBit_toNat (w k : Nat) : (flagBit w k).toNat = bits w k k := by
  have h : bits w k k < 2 := by simpa using bits_lt w k k
  unfold flagBit
  interval_cases bits w k k <;> rfl

/-- A flag is read back from the bit it was written to. -/
theorem flagBit_of_bits {w k : Nat} {b : Bool} (h : bits w k k = b.toNat) : flagBit w k = b := by
  unfold flagBit; rw [h]; cases b <;> rfl

theorem aluOpts_code_lt (o : AluOpts) : o.code < 512 := by
  have := ySrc_code_lt o.ysrc
  have := shiftCode_code_lt o.sh
  have := Bool.toNat_lt o.tn
  have := Bool.toNat_lt o.ret
  have := Bool.toNat_lt o.sa
  have := Bool.toNat_lt o.step
  have := Bool.toNat_lt o.sh32
  unfold AluOpts.code; omega

/-- The option bits of an ALU word, read back under any higher bits (R104). -/
theorem aluOpts_ofCode_code (o : AluOpts) (k : Nat) : AluOpts.ofCode (k * 512 + o.code) = o := by
  obtain ⟨ysrc, tn, ret, sa, step, sh32, sh⟩ := o
  have := ySrc_code_lt ysrc
  have := shiftCode_code_lt sh
  have := Bool.toNat_lt tn
  have := Bool.toNat_lt ret
  have := Bool.toNat_lt sa
  have := Bool.toNat_lt step
  have := Bool.toNat_lt sh32
  have hy : bits (k * 512 + AluOpts.code ⟨ysrc, tn, ret, sa, step, sh32, sh⟩) 8 7 = ysrc.code := by
    simp only [bits, AluOpts.code]; omega
  have hs : bits (k * 512 + AluOpts.code ⟨ysrc, tn, ret, sa, step, sh32, sh⟩) 1 0 = sh.code := by
    simp only [bits, AluOpts.code]; omega
  unfold AluOpts.ofCode
  rw [hy, hs, ySrc_code, shiftCode_code]
  congr 1 <;> apply flagBit_of_bits <;> simp only [bits, AluOpts.code] <;> omega

/-- The option bits of a word are its low nine bits (R104). -/
theorem aluOpts_code_ofCode (w : Nat) : (AluOpts.ofCode w).code = w % 512 := by
  simp only [AluOpts.code, AluOpts.ofCode, flagBit_toNat, ySrc_ofCode (bits_lt w 8 7), shiftCode_ofCode (bits_lt w 1 0)]
  simp only [bits]; omega

/-! ## StackCPU words: decoding an encoding -/

theorem word_toNat {n : Nat} (h : n < 65536) : (BitVec.ofNat 16 n).toNat = n := Nat.mod_eq_of_lt h

/-- An ALU-class word decodes by its function and its options (R104, R113). -/
theorem decodesTo_aluWord {op : AluOp} {o : AluOpts} {i : Instr}
    (h : ∀ w, bits w 11 9 = op.code → AluOpts.ofCode w = o → decodeAlu w = i) : DecodesTo i (aluWord op o) := by
  have hop := aluOp_code_lt op
  have ho := aluOpts_code_lt o
  have hcls : bits (0x8000 + op.code * 512 + o.code) 15 12 = 8 := by simp only [bits]; omega
  have hopts : AluOpts.ofCode (0x8000 + op.code * 512 + o.code) = o := by
    rw [show 0x8000 + op.code * 512 + o.code = (64 + op.code) * 512 + o.code by omega, aluOpts_ofCode_code]
  show decodeWord (BitVec.ofNat 16 (0x8000 + op.code * 512 + o.code)) = i
  simp only [decodeWord, word_toNat (show 0x8000 + op.code * 512 + o.code < 65536 by omega), hcls]
  exact h _ (by simp only [bits]; omega) hopts

/-- A word of classes 1100 to 1111, with all its fields (R108, R110). -/
structure LliFields (w cls ios : Nat) (op : AluOp) (tn ret : Bool) (low : Nat) : Prop where
  cls : bits w 13 12 = cls
  ios : bits w 8 7 = ios
  op : AluOp.ofCode (bits w 11 9) = op
  tn : flagBit w 6 = tn
  ret : flagBit w 5 = ret
  low : w % 32 = low

theorem decodesTo_lliWord {cls ios : Nat} {op : AluOp} {tn ret : Bool} {low : Nat} {i : Instr} (hcls : cls < 4)
    (hios : ios < 4) (hlow : low < 32) (h : ∀ w, LliFields w cls ios op tn ret low → decodeLliMem w = i) :
    DecodesTo i (lliWord (12 + cls) ios op tn ret low) := by
  have hop := aluOp_code_lt op
  have := Bool.toNat_lt tn
  have := Bool.toNat_lt ret
  show decodeWord (BitVec.ofNat 16 _) = i
  generalize hw : (12 + cls) * 4096 + op.code * 512 + ios * 128 + tn.toNat * 64 + ret.toNat * 32 + low = w
  have hfun : bits w 11 9 = op.code := by simp only [bits]; omega
  have hfields : decodeLliMem w = i := by
    apply h
    refine ⟨?_, ?_, by rw [hfun, aluOp_code], flagBit_of_bits ?_, flagBit_of_bits ?_, by omega⟩ <;>
      simp only [bits] <;> omega
  have htop : bits w 15 12 = 12 + cls := by simp only [bits]; omega
  simp only [decodeWord, word_toNat (show w < 65536 by omega), htop]
  interval_cases cls <;> exact hfields

theorem ofNat5_of_low {w : Nat} {a : BitVec 5} (h : w % 32 = a.toNat) : BitVec.ofNat 5 w = a := by
  apply BitVec.eq_of_toNat_eq; simpa using h

/-- The slot number and the bit above it, the low five bits of the internal forms (R108). -/
theorem slot_of_low {w : Nat} {slot : Fin 16} {sa : Bool} (h : w % 32 = sa.toNat * 16 + slot.val) :
    Fin.ofNat 16 w = slot ∧ flagBit w 4 = sa := by
  have := slot.isLt
  have := Bool.toNat_lt sa
  constructor
  · apply Fin.ext; show w % 16 = _; omega
  · apply flagBit_of_bits; simp only [bits]; omega

theorem decodesTo_call (a : BitVec 15) : DecodesTo (.sCall a) (.word (BitVec.ofNat 16 a.toNat)) := by
  have ha := a.isLt
  have hcls : bits a.toNat 15 12 < 8 := by simp only [bits]; omega
  show decodeWord (BitVec.ofNat 16 a.toNat) = _
  simp only [decodeWord, word_toNat (show a.toNat < 65536 by omega)]
  generalize bits a.toNat 15 12 = cls at hcls
  interval_cases cls <;> simp

/-- A branch word decodes by its class and its page address (R103). -/
theorem decodesTo_page {cls : Nat} {a : BitVec 12} {i : Instr} (hcls : cls < 16)
    (h : ∀ w : Word, bits w.toNat 15 12 = cls → BitVec.ofNat 12 w.toNat = a → decodeWord w = i) :
    DecodesTo i (.word (BitVec.ofNat 16 (cls * 4096 + a.toNat))) := by
  have ha := a.isLt
  have hval : (BitVec.ofNat 16 (cls * 4096 + a.toNat)).toNat = cls * 4096 + a.toNat := word_toNat (by omega)
  apply h
  · rw [hval]; simp only [bits]; omega
  · rw [hval]; apply BitVec.eq_of_toNat_eq; simp; omega

/-! ## StackCPU words: encoding what was decoded -/

theorem encode_decodeAlu (w : Nat) :
    encode (decodeAlu w) = .word (BitVec.ofNat 16 (0x8000 + bits w 11 9 * 512 + w % 512)) := by
  have hop : bits w 11 9 < 8 := by simpa using bits_lt w 11 9
  have h : encode (decodeAlu w) = aluWord (AluOp.ofCode (bits w 11 9)) (AluOpts.ofCode w) := by
    unfold decodeAlu; cases AluOp.ofCode (bits w 11 9) <;> rfl
  rw [h, aluWord, aluOp_ofCode hop, aluOpts_code_ofCode]

theorem lliWord_of_fields {w cls ios low : Nat} (hcls : bits w 15 12 = cls) (hios : bits w 8 7 = ios) (hlow : w % 32 = low)
    (hw : w < 65536) :
    lliWord cls ios (AluOp.ofCode (bits w 11 9)) (flagBit w 6) (flagBit w 5) low = .word (BitVec.ofNat 16 w) := by
  have hop : bits w 11 9 < 8 := by simpa using bits_lt w 11 9
  rw [lliWord, aluOp_ofCode hop, flagBit_toNat, flagBit_toNat]
  congr 2
  subst hcls hios hlow
  simp only [bits]; omega

theorem slotLow (w : Nat) : w % 32 = (flagBit w 4).toNat * 16 + (Fin.ofNat 16 w).val := by
  rw [flagBit_toNat]; simp only [bits, Fin.ofNat]; omega

theorem encode_decodeLliMem {w : Nat} (hw : w < 65536) (hcls : 12 ≤ bits w 15 12) :
    encode (decodeLliMem w) = .word (BitVec.ofNat 16 w) := by
  have hlow : w % 32 = (BitVec.ofNat 5 w).toNat := by simp
  have hc : bits w 15 12 = 12 + bits w 13 12 := by simp only [bits] at hcls ⊢; omega
  have hc4 : bits w 13 12 < 4 := by simpa using bits_lt w 13 12
  have hi4 : bits w 8 7 < 4 := by simpa using bits_lt w 8 7
  have plain := fun ios (h : bits w 8 7 = ios) => lliWord_of_fields hc h hlow hw
  have slot := fun ios (h : bits w 8 7 = ios) => lliWord_of_fields hc h (slotLow w) hw
  unfold decodeLliMem
  simp only
  generalize hcv : bits w 13 12 = cls at *
  generalize hiv : bits w 8 7 = ios at *
  interval_cases cls
  · interval_cases ios
    · exact plain 0 rfl
    · exact slot 1 rfl
    all_goals exact plain _ rfl
  · interval_cases ios
    · exact plain 0 rfl
    · have h := slot 1 rfl
      cases hsa : flagBit w 4 <;> simp only [hsa] at h <;> simpa [encode] using h
    · exact slot 2 rfl
    · exact plain 3 rfl
  all_goals interval_cases ios <;> exact plain _ rfl

theorem wellFormed_decodeAlu (w : Nat) : wellFormed (decodeAlu w) = true := by
  unfold decodeAlu; split <;> rfl

theorem wellFormed_decodeLliMem (w : Nat) : wellFormed (decodeLliMem w) = true := by
  unfold decodeLliMem
  simp only
  split
  case h_6 => split <;> rfl
  all_goals rfl

/-- Settles O3, class by class (R101): the ALU words and the words of classes 1100 to 1111 are put together again from their
fields, CALL and the branches from their address. -/
theorem everyStackWordRoundTrips : Obligations.EveryStackWordRoundTrips := by
  intro w
  have hw : w.toNat < 65536 := w.isLt
  have hself : BitVec.ofNat 16 w.toNat = w := by simp
  unfold decodeWord
  simp only
  split
  case h_1 h =>
    refine ⟨wellFormed_decodeAlu _, ?_⟩
    have hval : 0x8000 + bits w.toNat 11 9 * 512 + w.toNat % 512 = w.toNat := by simp only [bits] at h ⊢; omega
    rw [encode_decodeAlu, hval, hself]
  case h_2 h => refine ⟨rfl, congrArg Code.word (BitVec.eq_of_toNat_eq ?_)⟩; simp [bits] at h ⊢; omega
  case h_3 h => refine ⟨rfl, congrArg Code.word (BitVec.eq_of_toNat_eq ?_)⟩; simp [bits] at h ⊢; omega
  case h_4 h => refine ⟨rfl, congrArg Code.word (BitVec.eq_of_toNat_eq ?_)⟩; simp [bits] at h ⊢; omega
  case h_9 h8 h9 h10 h11 h12 h13 h14 h15 =>
    refine ⟨rfl, congrArg Code.word (BitVec.eq_of_toNat_eq ?_)⟩
    simp [bits] at *; omega
  all_goals
    next h => exact ⟨wellFormed_decodeLliMem _, by rw [encode_decodeLliMem hw (by omega), hself]⟩

/-! ## RegisterCPU: the format of a byte sequence -/

theorem decodeBytes_format0 {c : Nat} (h : c < 16) (bs : List Byte) :
    decodeBytes (BitVec.ofNat 8 (c * 16 + 10) :: bs) = decodeF0 c bs := by
  have hb : (BitVec.ofNat 8 (c * 16 + 10)).toNat = c * 16 + 10 := byte_toNat (by omega)
  have hlow : bits (c * 16 + 10) 3 0 = 10 := by simp only [bits]; omega
  have htop : bits (c * 16 + 10) 7 4 = c := by simp only [bits]; omega
  simp only [decodeBytes, hb, hlow, htop, if_true]

theorem decodeBytes_format1 {op : Nat} (h : op < 16) (bs : List Byte) :
    decodeBytes (BitVec.ofNat 8 (op * 16 + 2) :: bs) = decodeF1 op bs := by
  have hb : (BitVec.ofNat 8 (op * 16 + 2)).toNat = op * 16 + 2 := byte_toNat (by omega)
  have hlow : bits (op * 16 + 2) 3 0 = 2 := by simp only [bits]; omega
  have htop : bits (op * 16 + 2) 7 4 = op := by simp only [bits]; omega
  simp only [decodeBytes, hb, hlow, htop, if_true]
  rfl

theorem decodeBytes_format5 {w : Nat} (h : w < 65536) (bs : List Byte) :
    decodeBytes (0x0E#8 :: wordLE w ++ bs) = decodeF5 w bs := withWord_wordLE decodeF5 h bs

theorem decodeBytes_format6 {w : Nat} (h : w < 65536) (bs : List Byte) :
    decodeBytes (0x4E#8 :: wordLE w ++ bs) = decodeF6 w bs := withWord_wordLE decodeF6 h bs

theorem decodeBytes_format7 {w : Nat} (h : w < 65536) (bs : List Byte) :
    decodeBytes (0xCE#8 :: wordLE w ++ bs) = decodeF7 w bs := withWord_wordLE decodeF7 h bs

/-- Formats 2, 3, 4: the first byte is the low byte of the field word, and a size code in bits 1:0 (R122, R131). -/
theorem decodeBytes_wordLE {w : Nat} (h : w < 65536) (hsize : bits w 1 0 ≠ 2) (bs : List Byte) :
    decodeBytes (wordLE w ++ bs) =
      if bits w 3 2 = 3 then (if bits w 6 4 = 7 then decodeF3 w bs else decodeF2 w bs) else decodeF4 w bs := by
  have hb : (BitVec.ofNat 8 w).toNat = w % 256 := by simp
  have low : ∀ k j, j ≤ k → k < 8 → bits (w % 256) k j = bits w k j := by
    intro k j hjk hk
    interval_cases k <;> interval_cases j <;> simp only [bits] <;> omega
  have h0 : bits w 3 0 ≠ 10 ∧ bits w 3 0 ≠ 2 ∧ w % 256 ≠ 0x0E ∧ w % 256 ≠ 0x4E ∧ w % 256 ≠ 0xCE := by
    simp only [bits] at hsize ⊢; omega
  obtain ⟨h10, h2, h0E, h4E, hCE⟩ := h0
  have hword : ∀ k, withWord k (BitVec.ofNat 8 w :: (BitVec.ofNat 8 (w / 256) :: bs)) = k w bs :=
    fun k => withWord_wordLE k h bs
  simp only [wordLE, List.cons_append, List.nil_append, decodeBytes, hb, low, Nat.reduceLeDiff, Nat.reduceLT, h10, h2, h0E,
    h4E, hCE, hsize, if_false, hword]

/-! ## RegisterCPU: one lemma per encoding format -/

theorem wfOne_iff {i : Size} {g : Gen} : wfOne i g = true ↔ i ≠ .undef ∧ wfGen i g = true := by simp [wfOne, wfSize]

theorem wfTwo_iff {i : Size} {g1 g2 : Gen} : wfTwo i g1 g2 = true ↔ i ≠ .undef ∧ wfGens i i g1 g2 = true := by
  simp [wfTwo, wfSize]

theorem size_code_ne_two {i : Size} (h : i ≠ .undef) : i.code ≠ 2 := by cases i <;> simp [Size.code] at h ⊢

/-- Format 0 (R123). -/
theorem decodesTo_enc0 {c : Cond} {d : Disp} {mk : Disp → Instr} (h : decodeF0 c.code = withDisp mk) :
    DecodesTo (mk d) (enc0 c d) := by
  intro rest
  rw [List.cons_append, decodeBytes_format0 (cond_code_lt c), h, withDisp, decodeDisp_bytes]

/-- Format 1 (R124). -/
theorem decodesTo_enc1 {op : Nat} {tail : List Byte} {i : Instr} (hop : op < 16)
    (h : ∀ rest, decodeF1 op (tail ++ rest) = .ok (i, rest)) : DecodesTo i (enc1 op tail) := by
  intro rest
  rw [List.cons_append, decodeBytes_format1 hop, h]

theorem withDisp_bytes (mk : Disp → Instr) (d : Disp) (rest : List Byte) :
    withDisp mk (d.bytes ++ rest) = .ok (mk d, rest) := by rw [withDisp, decodeDisp_bytes]

/-- Format 2 (R125). -/
theorem decodesTo_enc2 {op short : Nat} {i : Size} {g : Gen} {tail : List Byte} {ins : Instr} (hi : i ≠ .undef)
    (hop : op < 7) (hshort : short < 16)
    (h : ∀ w rest, bits w 6 4 = op → bits w 10 7 = short → bits w 15 11 = g.code → Size.ofCode (bits w 1 0) = i →
      decodeF2 w (g.bytes ++ (tail ++ rest)) = .ok (ins, rest)) : DecodesTo ins (enc2 op short i g tail) := by
  intro rest
  have hg := gen_code_lt g
  have hi4 := size_code_lt i
  have hi2 := size_code_ne_two hi
  generalize hw : g.code * 2048 + short * 128 + op * 16 + 12 + i.code = w
  have hsize : bits w 1 0 = i.code := by simp only [bits]; omega
  have h32 : bits w 3 2 = 3 := by simp only [bits]; omega
  have h64 : bits w 6 4 = op := by simp only [bits]; omega
  rw [List.append_assoc, List.append_assoc, decodeBytes_wordLE (by omega) (by omega), if_pos h32, if_neg (by omega)]
  exact h w rest h64 (by simp only [bits]; omega) (by simp only [bits]; omega) (by rw [hsize, size_code])

/-- The instructions of format 2 that end with their operand. -/
theorem decodesTo_enc2_gen {op short : Nat} {i : Size} {g : Gen} {mk : Gen → Instr} (hop : op < 7) (hshort : short < 16)
    (hwf : wfOne i g = true)
    (h : ∀ w bs, bits w 6 4 = op → bits w 10 7 = short → bits w 15 11 = g.code → Size.ofCode (bits w 1 0) = i →
      decodeF2 w bs = withGen mk g.code i bs) : DecodesTo (mk g) (enc2 op short i g []) := by
  obtain ⟨hi, hg⟩ := wfOne_iff.mp hwf
  exact decodesTo_enc2 hi hop hshort fun w rest h1 h2 h3 h4 => by rw [h _ _ h1 h2 h3 h4, List.nil_append, withGen_bytes mk hg]

/-- Format 3 (R126). -/
theorem decodesTo_wordF3 {op gen : Nat} {i : Size} {tail : List Byte} {ins : Instr} (hi : i ≠ .undef)
    (hop : op < 16) (hg : gen < 32)
    (h : ∀ w rest, bits w 10 7 = op → bits w 15 11 = gen → Size.ofCode (bits w 1 0) = i →
      decodeF3 w (tail ++ rest) = .ok (ins, rest)) :
    DecodesTo ins (.bytes (wordLE (gen * 2048 + op * 128 + 124 + i.code) ++ tail)) := by
  intro rest
  have hi4 := size_code_lt i
  have hi2 := size_code_ne_two hi
  generalize hw : gen * 2048 + op * 128 + 124 + i.code = w
  have hsize : bits w 1 0 = i.code := by simp only [bits]; omega
  have h32 : bits w 3 2 = 3 := by simp only [bits]; omega
  have h64 : bits w 6 4 = 7 := by simp only [bits]; omega
  rw [List.append_assoc, decodeBytes_wordLE (by omega) (by omega), if_pos h32, if_pos h64]
  exact h w rest (by simp only [bits]; omega) (by simp only [bits]; omega) (by rw [hsize, size_code])

theorem decodesTo_enc3 {op : Nat} {i : Size} {g : Gen} {mk : Gen → Instr} (hop : op < 16) (hwf : wfOne i g = true)
    (h : ∀ w bs, bits w 10 7 = op → bits w 15 11 = g.code → Size.ofCode (bits w 1 0) = i →
      decodeF3 w bs = withGen mk g.code i bs) : DecodesTo (mk g) (enc3 op i g) := by
  obtain ⟨hi, hg⟩ := wfOne_iff.mp hwf
  exact decodesTo_wordF3 hi hop (gen_code_lt g) fun w rest h1 h2 h3 => by rw [h _ _ h1 h2 h3, withGen_bytes mk hg]

/-- The row `UNDEFINED.F3` (R133). -/
theorem decodesTo_undefinedF3 {gen : Fin 32} {op : Fin 16} {i : Size} (hi : i ≠ .undef) (hop : op.val = 8 ∨ op.val % 2 = 1) :
    DecodesTo (.undefinedF3 gen op i) (encode (.undefinedF3 gen op i)) := by
  have hdec := decodesTo_wordF3 (tail := []) (ins := .undefinedF3 gen op i) hi op.isLt gen.isLt fun w rest h1 h2 h3 => by
    unfold decodeF3
    simp only [h1, h2, h3]
    split
    case h_8 => simp
    all_goals omega
  rwa [List.append_nil] at hdec

/-- The fields of a word of formats 4, 6, 7 (R127, R129, R130). -/
structure GensFields (w op : Nat) (i : Size) (g1 g2 : Gen) : Prop where
  op : bits w 5 2 = op
  gen1 : bits w 15 11 = g1.code
  gen2 : bits w 10 6 = g2.code
  size : Size.ofCode (bits w 1 0) = i

theorem gensWord_lt {op : Nat} (hop : op < 16) (i : Size) (g1 g2 : Gen) : gensWord op i g1 g2 < 65536 := by
  have := gen_code_lt g1
  have := gen_code_lt g2
  have := size_code_lt i
  unfold gensWord; omega

theorem gensWord_fields {op : Nat} (hop : op < 16) (i : Size) (g1 g2 : Gen) :
    GensFields (gensWord op i g1 g2) op i g1 g2 := by
  have h1 := gen_code_lt g1
  have h2 := gen_code_lt g2
  have hi := size_code_lt i
  have hsize : bits (gensWord op i g1 g2) 1 0 = i.code := by simp only [bits, gensWord]; omega
  refine ⟨?_, ?_, ?_, by rw [hsize, size_code]⟩ <;> simp only [bits, gensWord] <;> omega

/-- Format 4 (R127). -/
theorem decodesTo_enc4 {op : Nat} {i : Size} {g1 g2 : Gen} {mk : Gen → Gen → Instr} (hop : op < 15) (hop4 : op % 4 ≠ 3)
    (hwf : wfTwo i g1 g2 = true)
    (h : ∀ w bs, GensFields w op i g1 g2 → decodeF4 w bs = withGens mk g1.code i g2.code i bs) :
    DecodesTo (mk g1 g2) (enc4 op i g1 g2) := by
  intro rest
  obtain ⟨hi, hgens⟩ := wfTwo_iff.mp hwf
  have hop16 : op < 16 := by omega
  have f := gensWord_fields hop16 i g1 g2
  have hsize : bits (gensWord op i g1 g2) 1 0 ≠ 2 := by
    have hi4 := size_code_lt i
    have hi2 := size_code_ne_two hi
    simp only [bits, gensWord]; omega
  have h32 : bits (gensWord op i g1 g2) 3 2 ≠ 3 := by have := f.op; simp only [bits] at this ⊢; omega
  rw [List.append_assoc, decodeBytes_wordLE (gensWord_lt hop16 i g1 g2) hsize, if_neg h32, h _ _ f,
    withGens_bytes mk hgens]

/-- Format 5 (R128). -/
theorem decodesTo_enc5 {op : Nat} {short : BitVec 4} {i : Size} {ins : Instr} (hop : op < 4)
    (h : ∀ w rest, bits w 15 11 = 0 → bits w 6 6 = 0 → bits w 5 2 = op → BitVec.ofNat 4 (bits w 10 7) = short →
      Size.ofCode (bits w 1 0) = i → decodeF5 w rest = .ok (ins, rest)) : DecodesTo ins (enc5 op short i) := by
  intro rest
  have hi := size_code_lt i
  have hs := short.isLt
  generalize hw : short.toNat * 128 + op * 4 + i.code = w
  have hsize : bits w 1 0 = i.code := by simp only [bits]; omega
  have hshort : bits w 10 7 = short.toNat := by simp only [bits]; omega
  have hword : decodeBytes (0x0E#8 :: wordLE w ++ rest) = decodeF5 w rest := decodeBytes_format5 (by omega) rest
  rw [hword]
  exact h w rest (by simp only [bits]; omega) (by simp only [bits]; omega) (by simp only [bits]; omega)
    (by rw [hshort]; simp) (by rw [hsize, size_code])

/-- Formats 6 and 7 (R129, R130). -/
theorem decodesTo_enc67 {b0 : Byte} {decodeF : Nat → List Byte → Except DecodeError (Instr × List Byte)} {op : Nat}
    {i n1 n2 : Size} {g1 g2 : Gen} {mk : Gen → Gen → Instr}
    (hb : ∀ {w}, w < 65536 → ∀ bs, decodeBytes (b0 :: wordLE w ++ bs) = decodeF w bs) (hop : op < 16)
    (hwf : wfGens n1 n2 g1 g2 = true)
    (h : ∀ w bs, GensFields w op i g1 g2 → decodeF w bs = withGens mk g1.code n1 g2.code n2 bs) :
    DecodesTo (mk g1 g2) (enc67 b0 op i g1 g2) := by
  intro rest
  have hword := hb (gensWord_lt hop i g1 g2) (g1.bytes ++ g2.bytes ++ rest)
  rw [List.cons_append] at hword
  rw [List.cons_append, List.append_assoc, hword, h _ _ (gensWord_fields hop i g1 g2), withGens_bytes mk hwf]

/-- The row `UNDEFINED.B10` (R133). -/
theorem decodesTo_encUndef {u : UndefB10} (h : wfUndef u = true) : DecodesTo (.undefinedB10 u) (encUndef u) := by
  cases u with
  | byte b =>
    intro rest
    obtain ⟨⟨⟨hlow, h0E⟩, h4E⟩, hCE⟩ := by simpa [wfUndef, ← BitVec.toNat_inj] using h
    have hb := b.isLt
    have h32 : bits b.toNat 3 0 ≠ 10 ∧ bits b.toNat 3 0 ≠ 2 ∧ bits b.toNat 1 0 = 2 := by simp only [bits] at hlow ⊢; omega
    obtain ⟨h10, h2, h1⟩ := h32
    simp [decodeBytes, h10, h2, h1, h0E, h4E, hCE]
  | fmt5 w =>
    intro rest
    have hword : decodeBytes (0x0E#8 :: wordLE w.toNat ++ rest) = decodeF5 w.toNat rest := decodeBytes_format5 w.isLt rest
    simp only [wfUndef, Bool.or_eq_true, bne_iff_ne, decide_eq_true_eq] at h
    rw [hword, decodeF5, BitVec.ofNat_toNat, BitVec.setWidth_eq]
    split
    next hz =>
      split
      case h_5 => rfl
      all_goals omega
    next => rfl
  | fmt6 w =>
    intro rest
    have hword : decodeBytes (0x4E#8 :: wordLE w.toNat ++ rest) = decodeF6 w.toNat rest := decodeBytes_format6 w.isLt rest
    simp only [wfUndef, Bool.or_eq_true, Bool.and_eq_true, beq_iff_eq] at h
    rw [hword]
    rcases h with (hop | hop) | ⟨hsize, hop | hop⟩
    · simp [decodeF6, hop]
    · simp [decodeF6, hop]
    · simp [decodeF6, hop, hsize, withSized, Size.ofCode]
    · simp [decodeF6, hop, hsize, withSized, Size.ofCode]
  | fmt7 w =>
    intro rest
    have hword : decodeBytes (0xCE#8 :: wordLE w.toNat ++ rest) = decodeF7 w.toNat rest := decodeBytes_format7 w.isLt rest
    simp only [wfUndef, Bool.or_eq_true, Bool.and_eq_true, beq_iff_eq, decide_eq_true_eq] at h
    rw [hword]
    rcases h with hop | ⟨hsize, (hop | hop) | hop⟩
    · simp [decodeF7, hop]
    · have hcases : bits w.toNat 5 2 = 0 ∨ bits w.toNat 5 2 = 1 ∨ bits w.toNat 5 2 = 2 ∨ bits w.toNat 5 2 = 3 := by omega
      rcases hcases with hop | hop | hop | hop <;> simp [decodeF7, hop, hsize, withSized, Size.ofCode]
    · simp [decodeF7, hop, hsize, withSized, Size.ofCode]
    · simp [decodeF7, hop, hsize, withSized, Size.ofCode]

/-! ## The round trips -/

/-- Every well-formed instruction, by its encoding format (R102 to R110, R123 to R130). -/
theorem decodesTo_encode (i : Instr) (h : wellFormed i = true) : DecodesTo i (encode i) := by
  cases i
  case sCall a => exact decodesTo_call a
  case sIf a => exact decodesTo_page (cls := 9) (by decide) fun w hpage haddr => by simp only [decodeWord, hpage, haddr]
  case sLoop a => exact decodesTo_page (cls := 10) (by decide) fun w hpage haddr => by simp only [decodeWord, hpage, haddr]
  case sElse a => exact decodesTo_page (cls := 11) (by decide) fun w hpage haddr => by simp only [decodeWord, hpage, haddr]
  case aluT o | aluAnd o | aluSub o | aluOr o | aluAdd o | aluXor o | aluSuby o | aluY o =>
    exact decodesTo_aluWord fun w hop ho => by simp [decodeAlu, hop, ho]
  case lfetch op tn ret a | lits op tn ret a | litl op tn ret a =>
    exact decodesTo_lliWord (cls := 0) (by decide) (by decide) a.isLt fun w f => by
      simp [decodeLliMem, f.cls, f.ios, f.op, f.tn, f.ret, ofNat5_of_low f.low]
  case lstore op tn ret a | lliReserved op tn ret a =>
    exact decodesTo_lliWord (cls := 1) (by decide) (by decide) a.isLt fun w f => by
      simp [decodeLliMem, f.cls, f.ios, f.op, f.tn, f.ret, ofNat5_of_low f.low]
  case mfetch0 op tn ret a | mfetch1 op tn ret a | mfetch2 op tn ret a | mfetchx op tn ret a =>
    exact decodesTo_lliWord (cls := 2) (by decide) (by decide) a.isLt fun w f => by
      simp [decodeLliMem, f.cls, f.ios, f.op, f.tn, f.ret, ofNat5_of_low f.low]
  case mstore0 op tn ret a | mstore1 op tn ret a | mstore2 op tn ret a | mstorex op tn ret a =>
    exact decodesTo_lliWord (cls := 3) (by decide) (by decide) a.isLt fun w f => by
      simp [decodeLliMem, f.cls, f.ios, f.op, f.tn, f.ret, ofNat5_of_low f.low]
  case ifetch op tn ret sa slot =>
    have hlow : sa.toNat * 16 + slot.val < 32 := by have := Bool.toNat_lt sa; omega
    exact decodesTo_lliWord (cls := 0) (by decide) (by decide) hlow fun w f => by
      obtain ⟨hslot, hsa⟩ := slot_of_low f.low
      simp only [decodeLliMem, f.cls, f.ios, f.op, f.tn, f.ret, hslot, hsa]
  case iswap op tn ret sa slot =>
    have hlow : sa.toNat * 16 + slot.val < 32 := by have := Bool.toNat_lt sa; omega
    exact decodesTo_lliWord (cls := 1) (by decide) (by decide) hlow fun w f => by
      obtain ⟨hslot, hsa⟩ := slot_of_low f.low
      simp only [decodeLliMem, f.cls, f.ios, f.op, f.tn, f.ret, hslot, hsa]
  case istore op tn ret slot =>
    exact decodesTo_lliWord (cls := 1) (by decide) (by decide) (by omega) fun w f => by
      obtain ⟨hslot, hsa⟩ := slot_of_low (slot := slot) (sa := false) (f.low.trans (by simp))
      simp only [decodeLliMem, f.cls, f.ios, f.op, f.tn, f.ret, hslot, hsa]; rfl
  case istoreSa op tn ret slot =>
    exact decodesTo_lliWord (cls := 1) (by decide) (by decide) (by omega) fun w f => by
      obtain ⟨hslot, hsa⟩ := slot_of_low (slot := slot) (sa := true) (f.low.trans (by simp))
      simp only [decodeLliMem, f.cls, f.ios, f.op, f.tn, f.ret, hslot, hsa]; rfl
  case beq d | bne d | bcs d | bcc d | bhi d | bls d | bgt d | ble d | bfs d | bfc d | blo d | bhs d | blt d | bge d | br d
      | bn d =>
    exact decodesTo_enc0 rfl
  case bsr d | ret d | cxp d | rxp d | rett d => exact decodesTo_enc1 (by decide) (withDisp_bytes _ d)
  case reti | nop | wait | dia | flag | svc | bpt => exact decodesTo_enc1 (by decide) fun _ => rfl
  case save m | restore m | exitI m => exact decodesTo_enc1 (by decide) fun _ => rfl
  case enter m d => exact decodesTo_enc1 (by decide) (withDisp_bytes (.enter m) d)
  case movs o i | cmps o i | setcfg o i | skps o i =>
    exact decodesTo_enc5 (by decide) fun w rest hg h6 hop hshort hi => by simp [decodeF5, hg, h6, hop, hshort, hi]
  case rot i g1 g2 | ash i g1 g2 | lsh i g1 g2 | cbit i g1 g2 | cbiti i g1 g2 | sbit i g1 g2 | sbiti i g1 g2 | ibit i g1 g2
      | neg i g1 g2 | notI i g1 g2 | absI i g1 g2 | com i g1 g2 =>
    exact decodesTo_enc67 decodeBytes_format6 (by decide) h fun w bs f => by
      simp only [decodeF6, f.op, f.gen1, f.gen2, f.size]
  case subp i g1 g2 | addp i g1 g2 =>
    obtain ⟨hi, hgens⟩ := wfTwo_iff.mp h
    exact decodesTo_enc67 decodeBytes_format6 (by decide) hgens fun w bs f => by
      simp only [decodeF6, f.op, f.gen1, f.gen2, f.size, withSized, if_neg hi]
  case movm i g1 g2 | cmpm i g1 g2 | inss i g1 g2 | exts i g1 g2 | mei i g1 g2 | dei i g1 g2 =>
    obtain ⟨hi, hgens⟩ := wfTwo_iff.mp h
    exact decodesTo_enc67 decodeBytes_format7 (by decide) hgens fun w bs f => by
      simp only [decodeF7, f.op, f.gen1, f.gen2, f.size, withSized, if_neg hi]
  case movxbw i g1 g2 | movzbw i g1 g2 | movzid i g1 g2 | movxid i g1 g2 | mul i g1 g2 | quo i g1 g2 | rem i g1 g2
      | modI i g1 g2 | divI i g1 g2 =>
    exact decodesTo_enc67 decodeBytes_format7 (by decide) h fun w bs f => by
      simp only [decodeF7, f.op, f.gen1, f.gen2, f.size]
  case undefinedB10 u => exact decodesTo_encUndef h
  case cxpd i g => exact decodesTo_enc3 (op := 0) (by decide) h fun w bs hop hgen hsize => by simp only [decodeF3, hop, hgen, hsize]
  case bicpsr i g => exact decodesTo_enc3 (op := 2) (by decide) h fun w bs hop hgen hsize => by simp only [decodeF3, hop, hgen, hsize]
  case jump i g => exact decodesTo_enc3 (op := 4) (by decide) h fun w bs hop hgen hsize => by simp only [decodeF3, hop, hgen, hsize]
  case bispsr i g => exact decodesTo_enc3 (op := 6) (by decide) h fun w bs hop hgen hsize => by simp only [decodeF3, hop, hgen, hsize]
  case adjsp i g => exact decodesTo_enc3 (op := 10) (by decide) h fun w bs hop hgen hsize => by simp only [decodeF3, hop, hgen, hsize]
  case jsr i g => exact decodesTo_enc3 (op := 12) (by decide) h fun w bs hop hgen hsize => by simp only [decodeF3, hop, hgen, hsize]
  case caseI i g => exact decodesTo_enc3 (op := 14) (by decide) h fun w bs hop hgen hsize => by simp only [decodeF3, hop, hgen, hsize]
  case undefinedF3 gen op i =>
    obtain ⟨hi, hop⟩ : i ≠ .undef ∧ (op.val = 8 ∨ op.val % 2 = 1) := by simpa [wellFormed, wfSize] using h
    exact decodesTo_undefinedF3 hi hop
  case addq q i g =>
    exact decodesTo_enc2_gen (op := 0) (by decide) q.isLt h fun w bs hop hshort hgen hsize => by
      simp [decodeF2, hop, hshort, hgen, hsize]
  case cmpq q i g =>
    exact decodesTo_enc2_gen (op := 1) (by decide) q.isLt h fun w bs hop hshort hgen hsize => by
      simp [decodeF2, hop, hshort, hgen, hsize]
  case spr q i g =>
    exact decodesTo_enc2_gen (op := 2) (by decide) q.isLt h fun w bs hop hshort hgen hsize => by
      simp [decodeF2, hop, hshort, hgen, hsize]
  case movq q i g =>
    exact decodesTo_enc2_gen (op := 5) (by decide) q.isLt h fun w bs hop hshort hgen hsize => by
      simp [decodeF2, hop, hshort, hgen, hsize]
  case lpr q i g =>
    exact decodesTo_enc2_gen (op := 6) (by decide) q.isLt h fun w bs hop hshort hgen hsize => by
      simp [decodeF2, hop, hshort, hgen, hsize]
  case scond c i g =>
    exact decodesTo_enc2_gen (op := 3) (by decide) (cond_code_lt c) h fun w bs hop hshort hgen hsize => by
      simp [decodeF2, hop, hshort, hgen, hsize]
  case acb q i g d =>
    obtain ⟨hi, hg⟩ := wfOne_iff.mp h
    exact decodesTo_enc2 (op := 4) hi (by decide) q.isLt fun w rest hop hshort hgen hsize => by
      simp [decodeF2, hop, hshort, hgen, hsize, decodeAcb, decodeGen_bytes hg, withDisp_bytes]
  case add i g1 g2 | cmp i g1 g2 | bic i g1 g2 | addc i g1 g2 | mov i g1 g2 | orI i g1 g2 | sub i g1 g2 | addr i g1 g2
      | andI i g1 g2 | subc i g1 g2 | tbit i g1 g2 | xorI i g1 g2 =>
    exact decodesTo_enc4 (by decide) (by decide) h fun w bs f => by
      simp only [decodeF4, f.op, f.gen1, f.gen2, f.size]

/-- Settles O1: both kinds of code are read off `decodesTo_encode`, a byte sequence with nothing after it. -/
theorem decodeEncodeRoundTrip : Obligations.DecodeEncodeRoundTrip := by
  intro i h
  have hdec := decodesTo_encode i h
  cases hcode : encode i with
  | word w =>
    rw [hcode] at hdec
    exact congrArg Except.ok hdec
  | bytes bs =>
    rw [hcode] at hdec
    have hall : decodeBytes bs = .ok (i, []) := by simpa using hdec []
    simp only [decode, hall]

/-- The encoding lengths, by encoding format (R100, R120). -/
theorem encodedLength (i : Instr) : EncodedLength.Statement i := by
  cases i
  case sCall | sIf | sLoop | sElse | aluT | aluAnd | aluSub | aluOr | aluAdd | aluXor | aluSuby | aluY | lfetch | ifetch
      | lits | litl | lstore | istore | istoreSa | iswap | lliReserved | mfetch0 | mfetch1 | mfetch2 | mfetchx | mstore0
      | mstore1 | mstore2 | mstorex =>
    exact encodedLength_word rfl
  case beq | bne | bcs | bcc | bhi | bls | bgt | ble | bfs | bfc | blo | bhs | blt | bge | br | bn | bsr | ret | cxp | rxp
      | rett =>
    exact encodedLength_disp rfl
  case reti | nop | wait | dia | flag | svc | bpt | save | restore | exitI => exact encodedLength_bytes rfl (by simp)
  case enter m d => exact EncodedLength.enter m d
  case movs | cmps | setcfg | skps => exact encodedLength_bytes rfl (by simp)
  case rot | ash | lsh | cbit | cbiti | sbit | sbiti | ibit | neg | notI | absI | com | subp | addp | movm | cmpm | inss
      | exts | movxbw | movzbw | movzid | movxid | mul | mei | dei | quo | rem | modI | divI =>
    exact encodedLength_three rfl
  case undefinedB10 u => exact EncodedLength.undefinedB10 u
  case cxpd | bicpsr | jump | bispsr | adjsp | jsr | caseI => exact encodedLength_single rfl
  case undefinedF3 gen op i => exact EncodedLength.undefinedF3 gen op i
  case addq | cmpq | spr | scond | movq | lpr => exact encodedLength_two rfl (by simp)
  case acb q i g d => exact EncodedLength.acb q i g d
  case add i g1 g2 | cmp i g1 g2 | bic i g1 g2 | addc i g1 g2 | mov i g1 g2 | orI i g1 g2 | sub i g1 g2 | addr i g1 g2
      | andI i g1 g2 | subc i g1 g2 | tbit i g1 g2 | xorI i g1 g2 =>
    exact encodedLength_two rfl (by rw [gen_bytes_length]; exact gen_len_le g2)

/-- Settles O2: what `decodesTo_encode` says of a byte sequence, and its length. -/
theorem decodeTakesExactlyItsBytes : Obligations.DecodeTakesExactlyItsBytes := by
  intro i bs rest hwf hcode
  have hdec := decodesTo_encode i hwf
  rw [hcode] at hdec
  exact ⟨hdec rest, encodedLength i bs hcode⟩

/-! ## Displacements from their values -/

/-- A value in the range of a width survives the cut to that width and the extension to 32 bits (R243). -/
theorem toInt_signExtend_ofInt {w : Nat} {v : Int} (hw : 0 < w) (h32 : w ≤ 32) (hlo : -2 ^ (w - 1) ≤ v)
    (hhi : v < 2 ^ (w - 1)) : ((BitVec.ofInt w v).signExtend 32).toInt = v := by
  rw [BitVec.toInt_signExtend_of_le h32, BitVec.toInt_ofInt_eq_self hw hlo hhi]

/-- Settles O4: in each of the three encodings the bytes are those of the displacement that holds the value's low bits, and
the value is in the range of its width. -/
theorem displacementRoundTrip : Obligations.DisplacementRoundTrip := by
  intro v rest
  have hnat : ∀ w, (BitVec.ofInt w v).toNat = (v % 2 ^ w).toNat := fun w => by simp [BitVec.toNat_ofInt]
  refine ⟨fun hlo hhi => ⟨.d1 (BitVec.ofInt 7 v), ?_, toInt_signExtend_ofInt (by decide) (by decide) hlo (by omega), rfl⟩,
    fun hlo hhi => ⟨.d2 (BitVec.ofInt 14 v), ?_, toInt_signExtend_ofInt (by decide) (by decide) hlo (by omega), rfl⟩,
    fun hlo hhi => ⟨.d4 (BitVec.ofInt 30 v), ?_, toInt_signExtend_ofInt (by decide) (by decide) hlo (by omega), rfl⟩⟩
  · have hbytes : (Disp.d1 (BitVec.ofInt 7 v)).bytes = [BitVec.ofInt 8 (v % 128)] := by
      rw [Disp.bytes, hnat]
      refine congrArg (· :: []) (BitVec.eq_of_toNat_eq ?_)
      simp [BitVec.toNat_ofInt]; omega
    simpa [hbytes] using decodeDisp_bytes (.d1 (BitVec.ofInt 7 v)) rest
  · have hbytes : (Disp.d2 (BitVec.ofInt 14 v)).bytes = bytesBE2 (0x8000 + (v % 16384).toNat) := by
      rw [Disp.bytes, hnat]; rfl
    rw [← hbytes, decodeDisp_bytes]
  · have hbytes : (Disp.d4 (BitVec.ofInt 30 v)).bytes = bytesBE4 (0xC0000000 + (v % 1073741824).toNat) := by
      rw [Disp.bytes, hnat]; rfl
    rw [← hbytes, decodeDisp_bytes]

/-- Settles O6: eight words, decoded. -/
theorem sampleWordsDecode : Obligations.SampleWordsDecode := by
  refine ⟨rfl, rfl, rfl, rfl, rfl, ?_, ?_, ?_⟩ <;> decide

end Sys2Proof.Proofs
end

section
/-!
What one instruction can do, said once for each core: which core's state it may change, that the memories stay in canonical
form, that StackCPU's interrupt latch stays, and that user mode keeps the protected state of RegisterCPU (R430). The
statements about every step follow from that.
-/
namespace Sys2Proof.Proofs
open Sys2Proof Sys2Proof.Machine Sys2Proof.Laws

/-! ## RegisterCPU: what every operation keeps -/

/-- What every RegisterCPU instruction keeps from one state to the next: the canonical form of memory, and in user mode the
protected state (R430). -/
structure Keeps (c t : RegCpu) : Prop where
  wf : RegWf c → RegWf t
  guarded : c.user = true → t.guardedState = c.guardedState

/-- The upper byte of `psr` is the same (R430). -/
def SameHigh (p q : Word) : Prop := q.extractLsb' 8 8 = p.extractLsb' 8 8

theorem SameHigh.refl (p : Word) : SameHigh p p := rfl

theorem sameHigh_iff {p q : Word} : SameHigh p q ↔ ∀ k, 8 ≤ k → psrBit q k = psrBit p k := by
  constructor
  · intro h k hk
    by_cases hk16 : k < 16
    · have hbit := congrArg (·.getLsbD (k - 8)) h
      have e : 8 + (k - 8) = k := by omega
      have hk8 : k - 8 < 8 := by omega
      simpa [psrBit, BitVec.getLsbD_extractLsb', e, hk8] using hbit
    · exact (BitVec.getLsbD_of_ge _ _ (by omega)).trans (BitVec.getLsbD_of_ge _ _ (by omega)).symm
  · intro h
    apply BitVec.eq_of_getLsbD_eq
    intro k hk
    have hbit := h (8 + k) (by omega)
    unfold psrBit at hbit
    simp only [BitVec.getLsbD_extractLsb', hbit]

theorem sameHigh_setPsrBit {k : Nat} (hk : k < 8) (p : Word) (v : Bool) : SameHigh p (setPsrBit p k v) := by
  rw [sameHigh_iff]
  intro j hj
  rw [psrBit_setPsrBit _ _ _ _ (by omega), if_neg (by omega)]

theorem SameHigh.trans {p q r : Word} (h : SameHigh p q) (h' : SameHigh q r) : SameHigh p r := Eq.trans h' h

theorem sameHigh_setCF (p : Word) (c f : Bool) : SameHigh p (setCF p c f) :=
  (sameHigh_setPsrBit (by decide) p c).trans (sameHigh_setPsrBit (by decide) _ f)

theorem sameHigh_setZNL (p : Word) (z n l : Bool) : SameHigh p (setZNL p z n l) :=
  ((sameHigh_setPsrBit (by decide) p z).trans (sameHigh_setPsrBit (by decide) _ n)).trans
    (sameHigh_setPsrBit (by decide) _ l)

theorem psrBit_setPsrLow (p : Word) (v : Byte) (k : Nat) :
    psrBit (setPsrLow p v) k = if k < 8 then v.getLsbD k else psrBit p k := by
  have happ : psrBit (setPsrLow p v) k = if k < 8 then v.getLsbD k else (p.extractLsb' 8 8).getLsbD (k - 8) :=
    BitVec.getLsbD_append
  rw [happ]
  split
  · rfl
  · have e : 8 + (k - 8) = k := by omega
    by_cases hk : k < 16
    · have hk8 : k - 8 < 8 := by omega
      simp [psrBit, e, hk8]
    · simp [psrBit, BitVec.getLsbD_of_ge, show 16 ≤ k by omega, show 8 ≤ k - 8 by omega]

theorem sameHigh_setPsrLow (p : Word) (v : Byte) : SameHigh p (setPsrLow p v) := by
  rw [sameHigh_iff]
  intro k hk
  rw [psrBit_setPsrLow, if_neg (by omega)]

theorem keeps_of {c t : RegCpu} (hwf : RegWf c → RegWf t) (hp : SameHigh c.psr t.psr) (hi : t.intbase = c.intbase)
    (hc : t.cfg = c.cfg) : Keeps c t :=
  ⟨hwf, fun _ => by unfold RegCpu.guardedState; rw [hp, hi, hc]⟩

/-- The protected state holds the mode bit. -/
theorem user_of_guardedState {c t : RegCpu} (h : t.guardedState = c.guardedState) : t.user = c.user :=
  sameHigh_iff.mp (congrArg Protected.psrHigh h : SameHigh c.psr t.psr) bitU (by decide)

theorem Keeps.refl (c : RegCpu) : Keeps c c := ⟨id, fun _ => rfl⟩

theorem Keeps.trans {c d t : RegCpu} (h : Keeps c d) (h' : Keeps d t) : Keeps c t :=
  ⟨fun hc => h'.wf (h.wf hc), fun hu =>
    (h'.guarded ((user_of_guardedState (h.guarded hu)).trans hu)).trans (h.guarded hu)⟩

theorem keeps_withPsr {c : RegCpu} {p : Word} (h : SameHigh c.psr p) : Keeps c (c.withPsr p) := keeps_of id h rfl rfl

theorem keeps_advance (c : RegCpu) (len : Nat) : Keeps c (c.advance len) := keeps_of id rfl rfl rfl

theorem keeps_goto (c : RegCpu) (a : DWord) : Keeps c (c.goto a) := keeps_of id rfl rfl rfl

theorem keeps_setReg (c : RegCpu) (k : Fin 8) (n : Size) (v : DWord) : Keeps c (c.setReg k n v) := keeps_of id rfl rfl rfl

theorem keeps_setSp (c : RegCpu) (v : DWord) : Keeps c (c.setSp v) :=
  keeps_of (fun h => regWf_setSp h v) (by rw [setSp_psr]; rfl) (by simp) (by simp)

theorem keeps_memWrite (c : RegCpu) (a : DWord) (n : Size) (v : DWord) : Keeps c (c.memWrite a n v) :=
  keeps_of (fun h => regWf_memWrite h a n v) (by rw [memWrite_psr]; rfl) (by simp) (by simp)

theorem keeps_pushN (c : RegCpu) (n : Size) (v : DWord) : Keeps c (c.pushN n v) :=
  (keeps_setSp c _).trans (keeps_memWrite _ _ n v)

theorem keeps_push32 (c : RegCpu) (v : DWord) : Keeps c (c.push32 v) := keeps_pushN c .d v

theorem keeps_drop32 (c : RegCpu) : Keeps c c.drop32 := keeps_setSp c _

theorem keeps_loadModule (c : RegCpu) (m : Word) : Keeps c (c.loadModule m) := keeps_of id rfl rfl rfl

theorem keeps_enterDescriptor (c : RegCpu) (desc : DWord) : Keeps c (c.enterDescriptor desc) :=
  keeps_of (fun h => by rwa [RegWf, enterDescriptor_mem]) (by rw [enterDescriptor_psr]; rfl) (by simp) (by simp)

theorem keeps_callDescriptor (c : RegCpu) (desc ret : DWord) : Keeps c (c.callDescriptor desc ret) :=
  ((keeps_push32 c _).trans (keeps_push32 _ ret)).trans (keeps_enterDescriptor _ desc)

theorem keeps_afterSource (c : RegCpu) (n : Size) (o : Opnd) : Keeps c (c.afterSource n o) :=
  keeps_of (fun h => regWf_afterSource h n o) (by rw [afterSource_psr]; rfl) (by simp) (by simp)

theorem keeps_destUpdate (c : RegCpu) (n : Size) (d : Dest) (v : DWord) : Keeps c (c.destUpdate n d v) := by
  cases d
  case reg k => exact keeps_setReg c k n v
  case mem ea => exact keeps_memWrite c ea n v
  case tos => exact keeps_memWrite c c.sp n v

theorem keeps_destWrite (c : RegCpu) (n : Size) (d : Dest) (v : DWord) : Keeps c (c.destWrite n d v) := by
  cases d
  case reg k => exact keeps_setReg c k n v
  case mem ea => exact keeps_memWrite c ea n v
  case tos => exact keeps_pushN c n v

theorem keeps_withBit (c : RegCpu) (p : BitPlace) (v : Bool) : Keeps c (c.withBit p v) := by
  cases p
  case reg k b => exact keeps_setReg c k .d _
  case mem a b => exact keeps_of (putByte_wf c a _) rfl rfl rfl

theorem keeps_foldl {α : Type} (f : RegCpu → α → RegCpu) (hf : ∀ c x, Keeps c (f c x)) (l : List α) (c : RegCpu) :
    Keeps c (l.foldl f c) := by
  induction l generalizing c with
  | nil => exact Keeps.refl c
  | cons x l ih => exact (hf c x).trans (ih _)

theorem keeps_saveRegs (c : RegCpu) (mask : Byte) : Keeps c (c.saveRegs mask) := by
  refine keeps_foldl _ (fun c b => ?_) _ c
  split
  · exact keeps_push32 c _
  · exact Keeps.refl c

theorem keeps_restoreRegs (c : RegCpu) (mask : Byte) : Keeps c (c.restoreRegs mask) := by
  refine keeps_foldl _ (fun c b => ?_) _ c
  split
  · exact (keeps_drop32 c).trans (keeps_setReg _ _ _ _)
  · exact Keeps.refl c

theorem keeps_stringFinish (c : RegCpu) (f : Bool) : Keeps c (c.stringFinish f) :=
  (keeps_withPsr (sameHigh_setPsrBit (by decide) c.psr f)).trans (keeps_advance _ 3)

theorem keeps_stringDone (c : RegCpu) (k : StringKind) : Keeps c (c.stringDone k) := by
  unfold RegCpu.stringDone
  split
  · exact (keeps_withPsr (sameHigh_setZNL c.psr true false false)).trans (keeps_stringFinish _ false)
  · exact keeps_stringFinish c false

theorem keeps_stringBody (c : RegCpu) (k : StringKind) (i : Size) (e : DWord) : Keeps c (c.stringBody k i e) := by
  have hstore : Keeps c (if k.stores then c.memWrite (c.reg 2) i e else c) := by
    split
    · exact keeps_memWrite c _ i e
    · exact Keeps.refl c
  unfold RegCpu.stringBody
  simp only
  split
  · refine hstore.trans (keeps_withPsr ?_)
    have hpsr : (if k.stores then c.memWrite (c.reg 2) i e else c).psr = c.psr := by split <;> simp
    rw [hpsr]; exact sameHigh_setZNL c.psr _ _ _
  · exact hstore

theorem keeps_stringAdvance (c : RegCpu) (k : StringKind) (opts : BitVec 4) (i : Size) :
    Keeps c (c.stringAdvance k opts i) := by
  unfold RegCpu.stringAdvance
  simp only
  refine Keeps.trans ?_ (keeps_setReg _ 0 .d _)
  split
  · exact (keeps_setReg c 1 .d _).trans (keeps_setReg _ 2 .d _)
  · exact keeps_setReg c 1 .d _

theorem keeps_stringStep (c : RegCpu) (k : StringKind) (opts : BitVec 4) (i : Size) : Keeps c (c.stringStep k opts i) := by
  unfold RegCpu.stringStep
  simp only
  split
  · exact keeps_stringDone c k
  split
  · exact keeps_stringFinish c true
  have hbody := keeps_stringBody c k i (c.element opts i)
  split
  · exact hbody.trans (keeps_stringFinish _ false)
  have hconsumed := hbody.trans (keeps_stringAdvance _ k opts i)
  split
  · exact hconsumed.trans (keeps_stringDone _ k)
  · exact hconsumed

/-! ## RegisterCPU: what the shapes keep -/

theorem readOne_keeps {c t : RegCpu} {n : Size} {g : Gen} {k : RegCpu → DWord → RegCpu} (hk : ∀ c v, Keeps c (k c v))
    (h : c.readOne n g k = .ok t) : Keeps c t := by
  obtain ⟨o, -, rfl⟩ := readOne_inv h
  exact (keeps_afterSource c n o).trans (hk _ _)

theorem addrOne_keeps {c t : RegCpu} {g : Gen} {k : DWord → RegCpu} (hk : ∀ ea, Keeps c (k ea))
    (h : c.addrOne g k = .ok t) : Keeps c t := by
  obtain ⟨o, ea, -, -, rfl⟩ := addrOne_inv h
  exact hk ea

theorem writeOne_keeps {c t : RegCpu} {n : Size} {g : Gen} {len : Nat} {v : DWord} (h : c.writeOne n g len v = .ok t) :
    Keeps c t := by
  obtain ⟨o, d, -, -, rfl⟩ := writeOne_inv h
  exact (keeps_destWrite c n d v).trans (keeps_advance _ len)

theorem rmwOne_keeps {c t : RegCpu} {n : Size} {g : Gen} {len : Nat} {f : Word → DWord → DWord × Word}
    (hf : ∀ p a, SameHigh p (f p a).2) (h : c.rmwOne n g len f = .ok t) : Keeps c t := by
  obtain ⟨o, d, v, -, -, rfl, rfl⟩ := rmwOne_inv h
  exact ((keeps_destUpdate c n d _).trans (keeps_withPsr (by rw [destUpdate_psr]; exact hf _ _))).trans (keeps_advance _ len)

theorem readTwo_keeps {c t : RegCpu} {n : Size} {g1 g2 : Gen} {len : Nat} {f : Word → DWord → DWord → Word}
    (hf : ∀ p a b, SameHigh p (f p a b)) (h : c.readTwo n g1 g2 len f = .ok t) : Keeps c t := by
  obtain ⟨o1, o2, p, -, -, rfl, rfl⟩ := readTwo_inv h
  refine (((keeps_afterSource c n o1).trans (keeps_afterSource _ n o2)).trans (keeps_withPsr ?_)).trans (keeps_advance _ len)
  rw [afterSource_psr, afterSource_psr]; exact hf _ _ _

theorem writeTwo_keeps {c t : RegCpu} {n1 n2 : Size} {g1 g2 : Gen} {len : Nat} {f : Word → DWord → DWord × Word}
    (hf : ∀ p a, SameHigh p (f p a).2) (h : c.writeTwo n1 n2 g1 g2 len f = .ok t) : Keeps c t := by
  obtain ⟨o1, o2, d, v, -, -, -, rfl, rfl⟩ := writeTwo_inv h
  refine (((keeps_afterSource c n1 o1).trans (keeps_destWrite _ n2 d _)).trans (keeps_withPsr ?_)).trans (keeps_advance _ len)
  rw [destWrite_psr, afterSource_psr]; exact hf _ _

theorem rmwTwo_keeps {c t : RegCpu} {n1 n2 : Size} {g1 g2 : Gen} {len : Nat} {f : Word → DWord → DWord → DWord × Word}
    (hf : ∀ p a b, SameHigh p (f p a b).2) (h : c.rmwTwo n1 n2 g1 g2 len f = .ok t) : Keeps c t := by
  obtain ⟨o1, o2, d, v, -, -, -, rfl, rfl⟩ := rmwTwo_inv h
  refine (((keeps_afterSource c n1 o1).trans (keeps_destUpdate _ n2 d _)).trans (keeps_withPsr ?_)).trans (keeps_advance _ len)
  rw [destUpdate_psr, afterSource_psr]; exact hf _ _ _

theorem divTwo_keeps {c t : RegCpu} {n : Size} {g1 g2 : Gen} {f : Int → Int → Int} (h : c.divTwo n g1 g2 f = .ok t) :
    Keeps c t := by
  obtain ⟨o1, o2, d, v, -, -, -, -, -, rfl⟩ := divTwo_inv h
  exact ((keeps_afterSource c n o1).trans (keeps_destUpdate _ n d v)).trans (keeps_advance _ _)

theorem bitTwo_keeps {c t : RegCpu} {n : Size} {g1 g2 : Gen} {len : Nat} {f : RegCpu → BitPlace → Bool → RegCpu}
    (hf : ∀ c p old, Keeps c (f c p old) ∧ (f c p old).psr = c.psr) (h : c.bitTwo n g1 g2 len f = .ok t) : Keeps c t := by
  obtain ⟨o1, o2, d, p, -, -, -, -, rfl⟩ := bitTwo_inv h
  refine (((keeps_afterSource c n o1).trans (hf _ _ _).1).trans (keeps_withPsr ?_)).trans (keeps_advance _ len)
  rw [(hf _ _ _).2, afterSource_psr]; exact sameHigh_setPsrBit (by decide) _ _

theorem withBit_psr (c : RegCpu) (p : BitPlace) (v : Bool) : (c.withBit p v).psr = c.psr := by cases p <;> rfl

theorem privileged_keeps {c t : RegCpu} {body : Except Abort RegCpu} (hwf : ∀ t, body = .ok t → RegWf c → RegWf t)
    (h : c.privileged body = .ok t) : Keeps c t := by
  obtain ⟨hsup, hbody⟩ := privileged_eq_ok h
  exact ⟨hwf t hbody, fun hu => by rw [hsup] at hu; cases hu⟩

/-- What the checks of `LPR` and `SPR` let through (R424). -/
theorem procCheck_inv {c : RegCpu} {code : BitVec 4} {p : ProcReg} (h : c.procCheck code = .ok p) :
    procReg code = some p ∧ (procPrivileged p = false ∨ c.user = false) := by
  unfold RegCpu.procCheck at h
  split at h
  · cases h
  · next q hq =>
    split at h
    · cases h
    · next hpriv => cases h; exact ⟨hq, by simpa [or_iff_not_imp_left] using hpriv⟩

theorem keeps_procWrite {c d : RegCpu} (hcd : Keeps c d) {p : ProcReg} (n : Size) (v : DWord)
    (hp : procPrivileged p = false ∨ c.user = false) : Keeps c (d.procWrite p n v) := by
  by_cases hu : c.user = true
  · have hp : procPrivileged p = false := hp.resolve_right (by rw [hu]; decide)
    refine hcd.trans ?_
    cases p
    case upsr => exact keeps_withPsr (sameHigh_setPsrLow d.psr _)
    case sp => exact keeps_setSp d _
    case psr | intbase => cases hp
    case fp | sb | mod => exact keeps_of id rfl rfl rfl
  · exact ⟨fun h => regWf_procWrite (hcd.wf h) p n v, fun hu' => absurd hu' hu⟩

/-! ## RegisterCPU: one instruction -/

/-- Everything a RegisterCPU instruction can answer: a fault, the trap entry on the state before it, or a next state of its
core that keeps what `Keeps` says. -/
def RegOutcome (s : State) (out : Out) : Prop :=
  ∃ r, out = finishReg s r ∧ ∀ t, r = .ok t → Keeps s.reg t

theorem regOutcome_ok {s : State} {t : RegCpu} (h : Keeps s.reg t) : RegOutcome s (finishReg s (.ok t)) :=
  ⟨_, rfl, fun _ e => by cases e; exact h⟩

theorem regOutcome_error (s : State) (a : Abort) : RegOutcome s (finishReg s (.error a)) :=
  ⟨_, rfl, fun _ e => by cases e⟩

theorem regOutcome_guarded {s : State} {ok : Bool} {body : Except Abort RegCpu} (h : ∀ t, body = .ok t → Keeps s.reg t) :
    RegOutcome s (finishReg s (guarded ok body)) :=
  ⟨_, rfl, fun t e => h t (guarded_eq_ok e).2⟩

theorem regOutcome_branch (c : Cond) (d : Disp) (s : State) : RegOutcome s (branch c d s) := by
  apply regOutcome_ok
  split
  · exact keeps_goto _ _
  · exact keeps_advance _ _

theorem regOutcome_psrUpdate (i : Size) (g : Gen) (f : Word → Word → Word) (s : State) :
    RegOutcome s (psrUpdate i g f s) := by
  cases i
  case b =>
    exact ⟨_, rfl, fun t => readOne_keeps fun c v =>
      (keeps_withPsr (sameHigh_setPsrLow c.psr _)).trans (keeps_advance _ _)⟩
  case w =>
    refine ⟨_, rfl, fun t h => ?_⟩
    obtain ⟨o, -, h⟩ := bind_eq_ok h
    exact privileged_keeps (fun t ht hwf => by cases ht; exact regWf_afterSource hwf .w o) h
  case undef | d => exact regOutcome_error s (.trap .und)

theorem regOutcome_addr (i : Size) (g1 g2 : Gen) (s : State) : RegOutcome s (execAddr i g1 g2 s) := by
  refine regOutcome_guarded fun t h => ?_
  obtain ⟨o1, -, h⟩ := bind_eq_ok h
  obtain ⟨o2, -, h⟩ := bind_eq_ok h
  obtain ⟨ea, -, h⟩ := bind_eq_ok h
  obtain ⟨d, -, h⟩ := bind_eq_ok h
  cases h
  exact (keeps_destWrite _ .d d ea).trans (keeps_advance _ _)

theorem regOutcome_spr (code : BitVec 4) (i : Size) (g : Gen) (s : State) : RegOutcome s (execSpr code i g s) := by
  refine regOutcome_guarded fun t h => ?_
  obtain ⟨o, -, h⟩ := bind_eq_ok h
  obtain ⟨p, -, h⟩ := bind_eq_ok h
  obtain ⟨d, -, h⟩ := bind_eq_ok h
  cases h
  exact (keeps_destWrite _ i d _).trans (keeps_advance _ _)

theorem regOutcome_lpr (code : BitVec 4) (i : Size) (g : Gen) (s : State) : RegOutcome s (execLpr code i g s) := by
  refine regOutcome_guarded fun t h => ?_
  obtain ⟨o, -, h⟩ := bind_eq_ok h
  obtain ⟨p, hp, h⟩ := bind_eq_ok h
  cases h
  exact (keeps_procWrite (keeps_afterSource s.reg i o) i _ (procCheck_inv hp).2).trans (keeps_advance _ _)

theorem regOutcome_acb (q : BitVec 4) (i : Size) (g : Gen) (d : Disp) (s : State) : RegOutcome s (execAcb q i g d s) := by
  refine regOutcome_guarded fun t h => ?_
  obtain ⟨o, -, h⟩ := bind_eq_ok h
  obtain ⟨dst, -, h⟩ := bind_eq_ok h
  cases h
  refine (keeps_destUpdate s.reg i dst (lowBits i (s.reg.destValue i dst + quickValue q))).trans ?_
  split
  · exact keeps_advance _ _
  · exact keeps_goto _ _

/-- `fp` replaced, as `ENTER` and `EXIT` do (R291, R292). -/
def withFp (c : RegCpu) (v : DWord) : RegCpu := { c with fp := v }

theorem keeps_withFp (c : RegCpu) (v : DWord) : Keeps c (withFp c v) := keeps_of id rfl rfl rfl

/-- The state in which `ENTER` pushes the registers (R291): old `fp` pushed, `fp` at it, the locals below. -/
def framed (c : RegCpu) (size : DWord) : RegCpu :=
  (withFp (c.push32 c.fp) (c.push32 c.fp).sp).setSp ((c.push32 c.fp).sp - size)

/-- The state after the registers of an `EXIT` are popped: `SP` and `fp` come from the frame (R292). -/
def unframed (c : RegCpu) : RegCpu := withFp (c.setSp c.fp).drop32 (c.setSp c.fp).top32

theorem exec_enter (m : Byte) (d : Disp) (s : State) :
    exec (.enter m d) s = finishReg s (.ok (((framed s.reg d.value).saveRegs m).advance (2 + d.len))) := rfl

theorem exec_exitI (m : Byte) (s : State) :
    exec (.exitI m) s = finishReg s (.ok ((unframed (s.reg.restoreRegs m)).advance 2)) := rfl

theorem keeps_framed (c : RegCpu) (size : DWord) : Keeps c (framed c size) :=
  ((keeps_push32 c c.fp).trans (keeps_withFp _ _)).trans (keeps_setSp _ _)

theorem keeps_unframed (c : RegCpu) : Keeps c (unframed c) :=
  ((keeps_setSp c c.fp).trans (keeps_drop32 _)).trans (keeps_withFp _ _)

theorem regOutcome_enter (m : Byte) (d : Disp) (s : State) : RegOutcome s (exec (.enter m d) s) := by
  rw [exec_enter]
  exact regOutcome_ok (((keeps_framed s.reg d.value).trans (keeps_saveRegs _ m)).trans (keeps_advance _ _))

theorem regOutcome_exitI (m : Byte) (s : State) : RegOutcome s (exec (.exitI m) s) := by
  rw [exec_exitI]
  exact regOutcome_ok (((keeps_restoreRegs s.reg m).trans (keeps_unframed _)).trans (keeps_advance _ 2))

theorem regOutcome_jsr (i : Size) (g : Gen) (s : State) : RegOutcome s (execJsr i g s) :=
  regOutcome_guarded fun _ => addrOne_keeps fun ea =>
    (keeps_push32 s.reg (s.reg.pc + BitVec.ofNat 32 (lenOne 2 g))).trans (keeps_goto _ ea)

theorem regOutcome_rxp (d : Disp) (s : State) : RegOutcome s (execRxp d s) :=
  regOutcome_ok ((((keeps_drop32 s.reg).trans (keeps_drop32 _)).trans (keeps_goto _ _)).trans (keeps_loadModule _ _)
    |>.trans (keeps_setSp _ _))

/-! ## StackCPU: one instruction -/

/-- What every StackCPU instruction keeps: the canonical form of its memories and the interrupt latch (R35). -/
structure StackKeeps (c u : StackCpu) : Prop where
  wf : StackWf c → StackWf u
  latch : u.intreq = c.intreq

/-- Everything a StackCPU instruction can answer: a refusal, or a next state of its core that keeps what `StackKeeps` says. -/
def StackOutcome (s : State) (out : Out) : Prop :=
  (∃ e, out = .refused e) ∨ ∃ u, out = .next { s with stack := u } ∧ StackKeeps s.stack u

theorem stackOutcome_next {s : State} {u : StackCpu} (hwf : StackWf s.stack → StackWf u)
    (hlatch : u.intreq = s.stack.intreq) : StackOutcome s (nextStack s u) := .inr ⟨u, rfl, hwf, hlatch⟩

@[simp] theorem retPost_intreq (c : StackCpu) (ret : Bool) : (c.retPost ret).intreq = c.intreq := by
  unfold StackCpu.retPost; split <;> rfl

@[simp] theorem shift_intreq (c : StackCpu) (sh32 : Bool) (sh : ShiftCode) : (c.shift sh32 sh).intreq = c.intreq := by
  unfold StackCpu.shift; split <;> rfl

@[simp] theorem stackAdjust_intreq (c : StackCpu) (tn sa : Bool) : (c.stackAdjust tn sa).intreq = c.intreq := by
  unfold StackCpu.stackAdjust
  split
  · rfl
  · split <;> rfl

@[simp] theorem evaluate_intreq (c : StackCpu) (op : AluOp) (y : Word) (cin step : Bool) :
    (c.evaluate op y cin step).intreq = c.intreq := rfl

@[simp] theorem intWrite_intreq (c : StackCpu) (slot : Fin 16) (v : Word) : (c.intWrite slot v).intreq = c.intreq := by
  unfold StackCpu.intWrite
  split
  case h_9 => rw [bOut_frame]
  case h_13 => rw [xOut_frame]
  all_goals rfl

@[simp] theorem fetchWith_intreq (c : StackCpu) (op : AluOp) (tn ret : Bool) (v : Word) :
    (c.fetchWith op tn ret v).intreq = c.intreq := by
  unfold StackCpu.fetchWith; cases tn <;> simp

@[simp] theorem storeWith_intreq (c : StackCpu) (op : AluOp) (tn ret : Bool) (y : Word) :
    (c.storeWith op tn ret y).intreq = c.intreq := by
  unfold StackCpu.storeWith; cases tn <;> simp

@[simp] theorem fetchMem_intreq (c : StackCpu) (op : AluOp) (tn ret : Bool) : (c.fetchMem op tn ret).intreq = c.intreq := by
  unfold StackCpu.fetchMem; cases tn <;> simp

@[simp] theorem storeMem_intreq (c : StackCpu) (op : AluOp) (tn ret : Bool) : (c.storeMem op tn ret).intreq = c.intreq := by
  unfold StackCpu.storeMem; cases tn <;> simp

theorem stackOutcome_aluClass (s : State) (op : AluOp) (o : AluOpts) : StackOutcome s (aluClass s op o) := by
  unfold aluClass
  split
  · exact .inl ⟨_, rfl⟩
  · exact stackOutcome_next (fun h => stackWf_aluSteps h op o) (by simp [StackCpu.aluSteps])

theorem stackOutcome_fetchWith {s : State} {c : StackCpu} (hwf : StackWf s.stack → StackWf c)
    (hlatch : c.intreq = s.stack.intreq) (op : AluOp) (tn ret : Bool) (v : Word) :
    StackOutcome s (nextStack s (c.fetchWith op tn ret v)) :=
  stackOutcome_next (fun h => stackWf_fetchWith (hwf h) op tn ret v) (by simpa using hlatch)

theorem stackOutcome_storeWith {s : State} {c : StackCpu} (hwf : StackWf s.stack → StackWf c)
    (hlatch : c.intreq = s.stack.intreq) (op : AluOp) (tn ret : Bool) (y : Word) :
    StackOutcome s (nextStack s (c.storeWith op tn ret y)) :=
  stackOutcome_next (fun h => stackWf_storeWith (hwf h) op tn ret y) (by simpa using hlatch)

theorem stackOutcome_sLoop (addr : BitVec 12) (s : State) : StackOutcome s (execSLoop addr s) := by
  apply stackOutcome_next
  · intro h; split <;> exact h
  · split <;> rfl

/-! ## Both cores: one instruction -/

/-- The core an instruction belongs to: a StackCPU instruction is one word, a RegisterCPU instruction is bytes (R100, R120). -/
def coreOf (i : Instr) : CoreId :=
  match encode i with
  | .word _ => .stack
  | .bytes _ => .reg

/-- An instruction answers as one of its core does. -/
def OutcomeOf (s : State) (out : Out) : CoreId → Prop
  | .stack => StackOutcome s out
  | .reg => RegOutcome s out

/-- What every instruction can do, constructor by constructor: no later proof of an invariant splits `exec` again. -/
theorem exec_outcome (i : Instr) (s : State) : OutcomeOf s (exec i s) (coreOf i) := by
  cases i
  case sCall target => exact stackOutcome_next (fun h => stackWf_callTo h _) rfl
  case sIf addr => exact stackOutcome_next id rfl
  case sLoop addr => exact stackOutcome_sLoop addr s
  case sElse addr => exact stackOutcome_next id rfl
  case aluT o | aluAnd o | aluSub o | aluOr o | aluAdd o | aluXor o | aluSuby o | aluY o =>
    exact stackOutcome_aluClass s _ o
  case lfetch op tn ret a5 | ifetch op tn ret sa slot | lits op tn ret a5 =>
    exact stackOutcome_fetchWith (c := s.stack) id rfl op tn ret _
  case litl op tn ret a5 =>
    exact stackOutcome_fetchWith (c := { s.stack with pc := s.stack.pc + 1 }) id rfl op tn ret _
  case lstore op tn ret a5 =>
    exact stackOutcome_storeWith (fun h => stackWf_progWrite h _ _) rfl op tn ret _
  case istore op tn ret slot | iswap op tn ret sa slot =>
    exact stackOutcome_storeWith (fun h => stackWf_intWrite h slot _) (intWrite_intreq ..) op tn ret _
  case istoreSa op tn ret slot =>
    exact stackOutcome_storeWith (fun h => stackWf_intWrite (stackWf_timesBegin h) slot _) (intWrite_intreq ..) op tn ret _
  case lliReserved => exact .inl ⟨_, rfl⟩
  case mfetch0 op tn ret lit5 | mfetch1 op tn ret lit5 | mfetch2 op tn ret lit5 =>
    exact stackOutcome_next (fun h => stackWf_fetchMem h op tn ret) (fetchMem_intreq ..)
  case mfetchx op tn ret lit5 =>
    exact stackOutcome_next (fun h => stackWf_fetchStep h op ret lit5) (retPost_intreq _ ret)
  case mstore0 op tn ret lit5 | mstore1 op tn ret lit5 | mstore2 op tn ret lit5 =>
    exact stackOutcome_next (fun h => stackWf_storeMem h op tn ret) (storeMem_intreq ..)
  case mstorex op tn ret lit5 =>
    exact stackOutcome_next (fun h => stackWf_storeStep h op ret lit5) (retPost_intreq _ ret)
  case beq d | bne d | bcs d | bcc d | bhi d | bls d | bgt d | ble d | bfs d | bfc d | blo d | bhs d | blt d | bge d | br d
      | bn d =>
    exact regOutcome_branch _ d s
  case bsr d => exact regOutcome_ok ((keeps_push32 s.reg _).trans (keeps_goto _ _))
  case ret d => exact regOutcome_ok (((keeps_drop32 s.reg).trans (keeps_setSp _ _)).trans (keeps_goto _ _))
  case cxp d => exact regOutcome_ok (keeps_callDescriptor s.reg _ _)
  case rxp d => exact regOutcome_rxp d s
  case rett d =>
    exact ⟨_, rfl, fun t h => privileged_keeps (fun t ht hwf => by cases ht; exact regWf_trapReturn hwf d.value) h⟩
  case reti | dia | undefinedF3 => exact regOutcome_error s (.trap .und)
  case undefinedB10 u => cases u <;> exact regOutcome_error s (.trap .und)
  case svc => exact regOutcome_error s (.trap .svc)
  case bpt => exact regOutcome_error s (.trap .bpt)
  case save m => exact regOutcome_ok ((keeps_saveRegs s.reg m).trans (keeps_advance _ 2))
  case restore m => exact regOutcome_ok ((keeps_restoreRegs s.reg m).trans (keeps_advance _ 2))
  case enter m d => exact regOutcome_enter m d s
  case exitI m => exact regOutcome_exitI m s
  case nop => exact regOutcome_ok (keeps_advance s.reg 1)
  case wait => exact regOutcome_ok (Keeps.refl s.reg)
  case flag =>
    show RegOutcome s (finishReg s (if psrBit s.reg.psr bitF then .error (.trap .flg) else .ok (s.reg.advance 1)))
    split
    · exact regOutcome_error s _
    · exact regOutcome_ok (keeps_advance s.reg 1)
  case movs opts i | cmps opts i | skps opts i =>
    exact regOutcome_guarded fun t h => by cases h; exact keeps_stringStep s.reg _ opts i
  case setcfg short i =>
    exact regOutcome_guarded fun t h => privileged_keeps (fun t ht hwf => by cases ht; exact hwf) h
  case rot | ash | lsh | mul | bic | orI | andI | xorI =>
    exact regOutcome_guarded fun t => rmwTwo_keeps fun p a b => SameHigh.refl p
  case add | addc | sub | subc =>
    exact regOutcome_guarded fun t => rmwTwo_keeps fun p a b => sameHigh_setCF p _ _
  case cbit | cbiti | sbit | sbiti | ibit =>
    exact regOutcome_guarded fun t => bitTwo_keeps fun c p old => ⟨keeps_withBit c p _, withBit_psr c p _⟩
  case tbit => exact regOutcome_guarded fun t => bitTwo_keeps fun c p old => ⟨Keeps.refl c, rfl⟩
  case neg => exact regOutcome_guarded fun t => writeTwo_keeps fun p a => sameHigh_setCF p _ _
  case absI =>
    refine regOutcome_guarded fun t => writeTwo_keeps fun p a => ?_
    simp only
    split <;> exact sameHigh_setPsrBit (by decide) p _
  case notI | com | movxbw | movzbw | movzid | movxid | mov =>
    exact regOutcome_guarded fun t => writeTwo_keeps fun p a => SameHigh.refl p
  case subp => exact regOutcome_error s (.fatal (.notImplementedOpcode .subp))
  case addp => exact regOutcome_error s (.fatal (.notImplementedOpcode .addp))
  case movm => exact regOutcome_error s (.fatal (.notImplementedOpcode .movm))
  case cmpm => exact regOutcome_error s (.fatal (.notImplementedOpcode .cmpm))
  case inss => exact regOutcome_error s (.fatal (.notImplementedOpcode .inss))
  case exts => exact regOutcome_error s (.fatal (.notImplementedOpcode .exts))
  case mei => exact regOutcome_error s (.fatal (.notImplementedOpcode .mei))
  case dei => exact regOutcome_error s (.fatal (.notImplementedOpcode .dei))
  case quo | rem | modI | divI => exact regOutcome_guarded fun t => divTwo_keeps
  case cxpd i g => exact regOutcome_guarded fun t => addrOne_keeps fun ea => keeps_callDescriptor s.reg _ _
  case jump i g => exact regOutcome_guarded fun t => addrOne_keeps fun ea => keeps_goto s.reg ea
  case jsr i g => exact regOutcome_jsr i g s
  case bicpsr i g => exact regOutcome_psrUpdate i g (fun p v => p &&& ~~~v) s
  case bispsr i g => exact regOutcome_psrUpdate i g (fun p v => p ||| v) s
  case adjsp i g =>
    exact regOutcome_guarded fun t => readOne_keeps fun c v => (keeps_setSp c _).trans (keeps_advance _ _)
  case caseI i g => exact regOutcome_guarded fun t => readOne_keeps fun c v => keeps_goto c _
  case addq q i g => exact regOutcome_guarded fun t => rmwOne_keeps fun p a => sameHigh_setCF p _ _
  case cmpq q i g =>
    exact regOutcome_guarded fun t => readOne_keeps fun c v =>
      (keeps_withPsr (sameHigh_setZNL c.psr _ _ _)).trans (keeps_advance _ _)
  case spr code i g => exact regOutcome_spr code i g s
  case lpr code i g => exact regOutcome_lpr code i g s
  case acb q i g d => exact regOutcome_acb q i g d s
  case scond c i g => exact regOutcome_guarded fun t => writeOne_keeps
  case movq q i g => exact regOutcome_guarded fun t => writeOne_keeps
  case cmp => exact regOutcome_guarded fun t => readTwo_keeps fun p a b => sameHigh_setZNL p _ _ _
  case addr i g1 g2 => exact regOutcome_addr i g1 g2 s

/-! ## Both cores: the decoders -/

/-- A decoder that gives RegisterCPU instructions only. -/
def GivesReg (r : Except DecodeError (Instr × List Byte)) : Prop := ∀ i rest, r = .ok (i, rest) → coreOf i = .reg

theorem givesReg_ok {i : Instr} {bs : List Byte} (h : coreOf i = .reg) : GivesReg (.ok (i, bs)) := by
  intro j rest e; cases e; exact h

theorem givesReg_error (e : DecodeError) : GivesReg (.error e) := by intro j rest h; cases h

theorem givesReg_withDisp {mk : Disp → Instr} {bs : List Byte} (h : ∀ d, coreOf (mk d) = .reg) :
    GivesReg (withDisp mk bs) := by
  unfold withDisp
  split
  · exact givesReg_ok (h _)
  · exact givesReg_error _

theorem givesReg_withMask {mk : Byte → Instr} {bs : List Byte} (h : ∀ m, coreOf (mk m) = .reg) :
    GivesReg (withMask mk bs) := by
  cases bs with
  | nil => exact givesReg_error _
  | cons m rest => exact givesReg_ok (h m)

theorem givesReg_withGen {mk : Gen → Instr} {g : Nat} {n : Size} {bs : List Byte} (h : ∀ g, coreOf (mk g) = .reg) :
    GivesReg (withGen mk g n bs) := by
  unfold withGen
  split
  · exact givesReg_ok (h _)
  · exact givesReg_error _

theorem givesReg_withGens {mk : Gen → Gen → Instr} {g1 g2 : Nat} {n1 n2 : Size} {bs : List Byte}
    (h : ∀ g1 g2, coreOf (mk g1 g2) = .reg) : GivesReg (withGens mk g1 n1 g2 n2 bs) := by
  unfold withGens
  split
  · exact givesReg_withGen (h _)
  · exact givesReg_error _

theorem givesReg_withSized {mk : Gen → Gen → Instr} {u : UndefB10} {i : Size} {g1 g2 : Nat} {bs : List Byte}
    (hu : coreOf (.undefinedB10 u) = .reg) (h : ∀ g1 g2, coreOf (mk g1 g2) = .reg) : GivesReg (withSized mk u i g1 g2 bs) := by
  unfold withSized
  split
  · exact givesReg_ok hu
  · exact givesReg_withGens h

theorem givesReg_withWord {k : Nat → List Byte → Except DecodeError (Instr × List Byte)} {bs : List Byte}
    (h : ∀ w bs, GivesReg (k w bs)) : GivesReg (withWord k bs) := by
  unfold withWord
  split
  · exact h _ _
  · exact givesReg_error _

theorem givesReg_decodeF0 (c : Nat) (bs : List Byte) : GivesReg (decodeF0 c bs) := by
  unfold decodeF0
  cases Cond.ofCode c <;> exact givesReg_withDisp fun _ => rfl

theorem givesReg_decodeEnter (bs : List Byte) : GivesReg (decodeEnter bs) := by
  cases bs with
  | nil => exact givesReg_error _
  | cons m rest => exact givesReg_withDisp fun _ => rfl

theorem givesReg_decodeF1 (op : Nat) (bs : List Byte) : GivesReg (decodeF1 op bs) := by
  unfold decodeF1
  split
  case h_1 | h_2 | h_3 | h_4 | h_5 => exact givesReg_withDisp fun _ => rfl
  case h_7 | h_8 | h_10 => exact givesReg_withMask fun _ => rfl
  case h_9 => exact givesReg_decodeEnter bs
  all_goals exact givesReg_ok rfl

theorem givesReg_decodeAcb (q : BitVec 4) (i : Size) (g : Nat) (bs : List Byte) : GivesReg (decodeAcb q i g bs) := by
  unfold decodeAcb
  split
  · exact givesReg_withDisp fun _ => rfl
  · exact givesReg_error _

theorem givesReg_decodeF2 (w : Nat) (bs : List Byte) : GivesReg (decodeF2 w bs) := by
  unfold decodeF2
  simp only
  split
  case h_5 => exact givesReg_decodeAcb _ _ _ bs
  all_goals exact givesReg_withGen fun _ => rfl

theorem givesReg_decodeF3 (w : Nat) (bs : List Byte) : GivesReg (decodeF3 w bs) := by
  unfold decodeF3
  simp only
  split
  case h_8 => exact givesReg_ok rfl
  all_goals exact givesReg_withGen fun _ => rfl

theorem givesReg_decodeF4 (w : Nat) (bs : List Byte) : GivesReg (decodeF4 w bs) := by
  unfold decodeF4
  simp only
  split <;> exact givesReg_withGens fun _ _ => rfl

theorem givesReg_decodeF5 (w : Nat) (bs : List Byte) : GivesReg (decodeF5 w bs) := by
  unfold decodeF5
  simp only
  split
  · split <;> exact givesReg_ok rfl
  · exact givesReg_ok rfl

theorem givesReg_decodeF6 (w : Nat) (bs : List Byte) : GivesReg (decodeF6 w bs) := by
  unfold decodeF6
  simp only
  split
  case h_10 | h_14 => exact givesReg_withSized rfl fun _ _ => rfl
  case h_15 => exact givesReg_ok rfl
  all_goals exact givesReg_withGens fun _ _ => rfl

theorem givesReg_decodeF7 (w : Nat) (bs : List Byte) : GivesReg (decodeF7 w bs) := by
  unfold decodeF7
  simp only
  split
  case h_1 | h_2 | h_3 | h_4 | h_10 | h_11 => exact givesReg_withSized rfl fun _ _ => rfl
  case h_16 => exact givesReg_ok rfl
  all_goals exact givesReg_withGens fun _ _ => rfl

/-- Bytes are RegisterCPU instructions (R120). -/
theorem givesReg_decodeBytes (bs : List Byte) : GivesReg (decodeBytes bs) := by
  cases bs with
  | nil => exact givesReg_error _
  | cons b0 rest =>
    unfold decodeBytes
    simp only
    split
    · exact givesReg_decodeF0 _ _
    split
    · exact givesReg_decodeF1 _ _
    split
    · exact givesReg_withWord givesReg_decodeF5
    split
    · exact givesReg_withWord givesReg_decodeF6
    split
    · exact givesReg_withWord givesReg_decodeF7
    split
    · exact givesReg_ok rfl
    split
    · split
      · exact givesReg_withWord givesReg_decodeF3
      · exact givesReg_withWord givesReg_decodeF2
    · exact givesReg_withWord givesReg_decodeF4

/-- A StackCPU word is a StackCPU instruction (R101). -/
theorem coreOf_decodeWord (w : Word) : coreOf (decodeWord w) = .stack := by
  unfold coreOf; rw [(everyStackWordRoundTrips w).2]

/-! ## One step of each core -/

/-- Everything a StackCPU step can answer. -/
theorem stackStep_outcome (s : State) :
    StackOutcome { s with stack := s.stack.afterFetch s.par.ieMask } (stackStep s) := by
  have h := exec_outcome (decodeWord (s.stack.fetched s.par.ieMask)) { s with stack := s.stack.afterFetch s.par.ieMask }
  rwa [coreOf_decodeWord] at h

/-- What a StackCPU step that goes on leaves. -/
theorem stackStep_next {s t : State} (h : stackStep s = .next t) :
    ∃ u, t = { s with stack := u } ∧ StackKeeps (s.stack.afterFetch s.par.ieMask) u := by
  obtain ⟨e, he⟩ | ⟨u, hu, hk⟩ := stackStep_outcome s
  · rw [h] at he; cases he
  · rw [h] at hu; cases hu; exact ⟨u, rfl, hk⟩

/-- What a RegisterCPU step that goes on leaves: the trap entry on the state before it, or a state that keeps what `Keeps` says. -/
theorem regStep_next {s t : State} (h : regStep s = .next t) :
    ∃ u, t = { s with reg := u } ∧ ((∃ x, u = s.reg.trapEntry x) ∨ Keeps s.reg u) := by
  unfold regStep at h
  split at h
  case h_2 => cases h
  case h_1 i rest hdec =>
    split at h
    · cases h
    · have hout := exec_outcome i s
      rw [givesReg_decodeBytes _ i rest hdec] at hout
      obtain ⟨r, hr, hkeeps⟩ := hout
      rw [h] at hr
      obtain ⟨c, rfl, hfin⟩ | ⟨x, rfl, hfin⟩ | ⟨f, rfl, hfin⟩ := finishReg_cases s r
      · rw [hfin] at hr; cases hr; exact ⟨c, rfl, .inr (hkeeps c rfl)⟩
      · rw [hfin] at hr; cases hr; exact ⟨_, rfl, .inl ⟨x, rfl⟩⟩
      · rw [hfin] at hr; cases hr

/-! ## Every step -/

theorem step_stackNext {s : State} (h : stackNext s) : step s = stackStep s := by
  unfold step hostPhase coreStep; rw [h.1]; simp only; rw [h.2]

theorem step_regNext {s : State} (h : regNext s) : step s = regStep s := by
  unfold step hostPhase coreStep; rw [h.1]; simp only; rw [h.2]

/-- Settles O8. -/
theorem resetMemoryCanonical : Obligations.ResetMemoryCanonical := ⟨cellWf_nil, cellWf_nil, cellWf_nil, cellWf_nil⟩

theorem stackStep_wf {s t : State} (hwf : Memory.wf s) (h : stackStep s = .next t) : Memory.wf t := by
  obtain ⟨hprog, hds, hrs, hmem⟩ := hwf
  obtain ⟨u, rfl, hkeeps⟩ := stackStep_next h
  obtain ⟨hprog', hds', hrs'⟩ := hkeeps.wf (stackWf_afterFetch ⟨hprog, hds, hrs⟩ s.par.ieMask)
  exact ⟨hprog', hds', hrs', hmem⟩

theorem regStep_wf {s t : State} (hwf : Memory.wf s) (h : regStep s = .next t) : Memory.wf t := by
  obtain ⟨hprog, hds, hrs, hmem⟩ := hwf
  obtain ⟨u, rfl, ⟨x, rfl⟩ | hkeeps⟩ := regStep_next h
  · exact ⟨hprog, hds, hrs, regWf_trapEntry hmem x⟩
  · exact ⟨hprog, hds, hrs, hkeeps.wf hmem⟩

/-- Settles O9: the host's batch keeps the form, then one step of either core does. -/
theorem stepKeepsMemoryCanonical : Obligations.StepKeepsMemoryCanonical := by
  intro s t hwf hstep
  have hwf' := hostPhase_wf s hwf
  unfold step coreStep at hstep
  split at hstep
  · exact stackStep_wf hwf' hstep
  · exact regStep_wf hwf' hstep

/-- Settles O13: `stackStep_next` and `regStep_next` name the one core that changes. -/
theorem coresShareNothing : Obligations.CoresShareNothing := by
  intro s t hscript hstep
  constructor
  · intro hturn
    rw [step_stackNext ⟨hscript, hturn⟩] at hstep
    obtain ⟨u, rfl, -⟩ := stackStep_next hstep
    rfl
  · intro hturn
    rw [step_regNext ⟨hscript, hturn⟩] at hstep
    obtain ⟨u, rfl, -⟩ := regStep_next hstep
    rfl

/-- Settles O42: a step that takes no trap keeps what `Keeps` says, and the mode bit is in the protected state. -/
theorem userModeKeepsProtectedState : Obligations.UserModeKeepsProtectedState := by
  intro s t hreg huser hstep
  rw [step_regNext hreg] at hstep
  obtain ⟨u, rfl, htrap | hkeeps⟩ := regStep_next hstep
  · exact .inl htrap
  · have hguarded := hkeeps.guarded huser
    exact .inr ⟨(user_of_guardedState hguarded).trans huser, hguarded⟩

end Sys2Proof.Proofs
end

section
/-!
Reset and memory (R31, R70 to R82, R450 to R453), and the two steps (R140 to R144, R240, R241): the phases of a StackCPU step
by what they leave, the fetch of a RegisterCPU step by the bytes it decodes.
-/
namespace Sys2Proof.Proofs
open Sys2Proof Sys2Proof.Machine Sys2Proof.Laws

/-! ## Reset and memory -/

/-- Settles O7: both resets are record updates. -/
theorem resetStates : Obligations.ResetStates := by
  intro s
  refine ⟨⟨_, rfl, ?_⟩, ⟨_, rfl, rfl, rfl, rfl, rfl, by simp [RegCpu.user, psrBit, RegCpu.afterReset]⟩, rfl, rfl, rfl, rfl, rfl⟩
  simp [StackCpu.afterReset]

theorem memWrite_eq (c : RegCpu) (a : DWord) (n : Size) (v : DWord) :
    c.memWrite a n v = { c with mem := (c.memWrite a n v).mem } := by
  apply RegCpu.ext <;> simp

/-- Byte `k` of a store is bits `8k+7..8k` of the value (R82). -/
theorem byteAt_memWrite_inside (c : RegCpu) (a : DWord) (n : Size) (v : DWord) {k : Nat} (hk : k < n.bytes) :
    (c.memWrite a n v).byteAt (a + BitVec.ofNat 32 k) = v.extractLsb' (8 * k) 8 := by
  have hlow : v.setWidth 8 = v.extractLsb' 0 8 := by ext i hi; simp
  have hmid : (v.setWidth 16).extractLsb' 8 8 = v.extractLsb' 8 8 := by ext i hi; simp; omega
  have hlow16 : (v.setWidth 16).setWidth 8 = v.extractLsb' 0 8 := by ext i hi; simp
  cases n <;> simp only [Size.bytes] at hk <;> interval_cases k <;>
    simp [RegCpu.memWrite, byteAt_write16, byteAt_write32, hlow, hmid, hlow16]

/-- Settles O10. -/
theorem memoryReadAfterWrite : Obligations.MemoryReadAfterWrite := fun c a n v =>
  ⟨memRead_memWrite c a n v, fun _ => byteAt_memWrite_inside c a n v, fun x => byteAt_memWrite_outside c a x n v,
    memWrite_eq c a n v⟩

/-- Settles O11: the word below the moved pointer is the one the push wrote. -/
theorem stackMemoryRoundTrip : Obligations.StackMemoryRoundTrip := by
  intro c a b v
  refine ⟨progRead_progWrite c a b v, ⟨?_, by simp⟩, ⟨rfl, ?_, by simp⟩, wroteDs_cellWrite _ _ _ _ rfl,
    wroteRs_cellWrite _ _ _ _ rfl⟩
  · have hread := wroteDs_cellWrite c c.dPushN c.k c.n rfl c.k
    rw [if_pos rfl] at hread
    show c.dPushN.dsRead (c.k - 1 + 1) = c.n
    rw [BitVec.sub_add_cancel, hread]
  · have hread := wroteRs_cellWrite c (c.rPush v) c.j c.i rfl c.j
    rw [if_pos rfl] at hread
    show (c.rPush v).rsRead (c.j - 1 + 1) = c.i
    rw [BitVec.sub_add_cancel, hread]

/-! ## StackCPU: the phases of a step -/

theorem interruptPhase_idle {c : StackCpu} {m : BitVec 5} (h : c.serviced m = false) : c.interruptPhase m = c := by
  simp [StackCpu.interruptPhase, h]

/-- The state in which an interrupt is taken (R141, R414): a call to the vector, the request cleared. -/
def interrupted (c : StackCpu) : StackCpu := { c.callTo Config.stackIntVector with intreq := false }

theorem interruptPhase_serviced {c : StackCpu} {m : BitVec 5} (h : c.serviced m = true) :
    c.interruptPhase m = interrupted c := by
  rw [StackCpu.interruptPhase, if_pos h, interrupted]

theorem timesPhase_off {c : StackCpu} (h : c.timesmode = false) : c.timesPhase = c := by simp [StackCpu.timesPhase, h]

/-- The last repetition (R142): the return stack is popped and the latch cleared. -/
theorem timesPhase_last {c : StackCpu} (h : c.timesmode = true) (hi : c.i = 1) :
    c.timesPhase = { c with i := c.rsRead (c.j + 1), j := c.j + 1, timesmode := false } := by
  simp [StackCpu.timesPhase, h, hi, StackCpu.rPop, StackCpu.rsRead]

theorem timesPhase_repeat {c : StackCpu} (h : c.timesmode = true) (hi : c.i ≠ 1) : c.timesPhase = { c with i := c.i - 1 } := by
  have hne : c.i - 1 ≠ 0 := fun e => hi (by simpa using BitVec.sub_eq_iff_eq_add.mp e)
  unfold StackCpu.timesPhase
  simp only
  rw [if_pos h, if_neg hne]

/-- A step's word and the state it runs on, from the state the fetch sees; outside TIMES `pc` advances (R140, R143). -/
theorem step_of_beforeFetch {s : State} {c : StackCpu} (hs : stackNext s) (h : s.stack.beforeFetch s.par.ieMask = c)
    (htimes : c.timesmode = false) :
    step s = exec (decodeWord (c.progRead c.pc)) { s with stack := { c with pc := c.pc + 1 } } := by
  have hadv : c.advance = { c with pc := c.pc + 1 } := by simp [StackCpu.advance, htimes]
  rw [step_stackNext hs, stackStep, StackCpu.fetched, StackCpu.afterFetch, h, hadv]

/-- In TIMES `pc` stays at the word that repeats (R22). -/
theorem step_of_beforeFetch_times {s : State} {c : StackCpu} (hs : stackNext s)
    (h : s.stack.beforeFetch s.par.ieMask = c) (htimes : c.timesmode = true) :
    step s = exec (decodeWord (c.progRead c.pc)) { s with stack := c } := by
  have hadv : c.advance = c := by simp [StackCpu.advance, htimes]
  rw [step_stackNext hs, stackStep, StackCpu.fetched, StackCpu.afterFetch, h, hadv]

theorem beforeFetch_idle {c : StackCpu} {m : BitVec 5} (h : c.serviced m = false) : c.beforeFetch m = c.timesPhase := by
  rw [StackCpu.beforeFetch, interruptPhase_idle h]

/-- Settles O16: with no interrupt to service the fetch sees the state after the TIMES phase. -/
theorem timesPhase : Obligations.TimesPhase := by
  intro s hs hidle htimes
  have hbefore := beforeFetch_idle hidle
  exact ⟨fun hi => step_of_beforeFetch_times hs (hbefore.trans (timesPhase_repeat htimes hi)) htimes,
    fun hi => step_of_beforeFetch hs (hbefore.trans (timesPhase_last htimes hi)) rfl⟩

theorem afterFetch_intreq {c : StackCpu} {m : BitVec 5} (h : c.serviced m = false) :
    (c.afterFetch m).intreq = c.intreq := by
  have htimes : c.timesPhase.intreq = c.intreq := by
    unfold StackCpu.timesPhase
    simp only
    split
    · split <;> rfl
    · rfl
  rw [StackCpu.afterFetch, beforeFetch_idle h, StackCpu.advance]
  split <;> exact htimes

/-- Settles O15: neither the phases nor, by `stackStep_next`, any instruction writes the latch. -/
theorem interruptStaysLatched : Obligations.InterruptStaysLatched := by
  intro s t hs hidle hstep
  rw [step_stackNext hs] at hstep
  obtain ⟨u, rfl, hkeeps⟩ := stackStep_next hstep
  exact hkeeps.latch.trans (afterFetch_intreq hidle)

/-- The word that CALL and the interrupt push, as a number (R26). -/
theorem toNat_savedWord (c : StackCpu) : c.savedWord.toNat = c.carry.toNat * 32768 + c.pc.toNat % 32768 := by
  have happ : c.savedWord.toNat = (BitVec.ofBool c.carry).toNat <<< 15 ||| (c.pc.setWidth 15).toNat := BitVec.toNat_append _ _
  rw [happ, Nat.shiftLeft_eq, Nat.mul_comm, ← Nat.two_pow_add_eq_or_of_lt (c.pc.setWidth 15).isLt]
  simp [Nat.mul_comm]

/-- Settles O14: service leaves a call to the vector with the request cleared; in TIMES the phase after it counts the pushed
word down, and the pop of the last repetition gives back the counter that service had pushed. -/
theorem interruptEntry : Obligations.InterruptEntry := by
  intro s hs hreq hmask saved
  have hserviced : s.stack.serviced s.par.ieMask = true := by simpa [StackCpu.serviced, hreq] using hmask
  have hsaved : s.stack.savedWord.toNat = saved := toNat_savedWord s.stack
  have hpushed : WroteRs s.stack (interrupted s.stack) s.stack.j s.stack.i := wroteRs_cellWrite _ _ _ _ rfl
  have hbefore : s.stack.beforeFetch s.par.ieMask = (interrupted s.stack).timesPhase := by
    rw [StackCpu.beforeFetch, interruptPhase_serviced hserviced]
  cases htimes : s.stack.timesmode with
  | false =>
    have hstep := step_of_beforeFetch hs (hbefore.trans (timesPhase_off (c := interrupted s.stack) htimes)) htimes
    exact ⟨_, hstep, hpushed, fun _ => ⟨rfl, hsaved⟩, fun h => (by cases h), fun h => (by cases h)⟩
  | true =>
    by_cases hone : saved = 1
    · have hi : (interrupted s.stack).i = 1 := BitVec.eq_of_toNat_eq (hsaved.trans hone)
      have hstep := step_of_beforeFetch hs (hbefore.trans (timesPhase_last (c := interrupted s.stack) htimes hi)) rfl
      have hback : (interrupted s.stack).rsRead (s.stack.j - 1 + 1) = s.stack.i := by
        rw [BitVec.sub_add_cancel, hpushed, if_pos rfl]
      refine ⟨_, hstep, hpushed, fun h => (by cases h), fun _ h => absurd hone h, fun _ _ => ?_⟩
      apply StackCpu.ext
      case i => exact hback
      case j => exact BitVec.sub_add_cancel _ _
      all_goals rfl
    · have hi : (interrupted s.stack).i ≠ 1 := fun h => hone (by rw [← hsaved]; exact congrArg BitVec.toNat h)
      have hstep := step_of_beforeFetch_times hs (hbefore.trans (timesPhase_repeat (c := interrupted s.stack) htimes hi)) htimes
      refine ⟨_, hstep, hpushed, fun h => (by cases h), fun _ _ => ⟨rfl, ?_⟩, fun _ h => absurd h hone⟩
      have hback : s.stack.savedWord - 1 + 1 = s.stack.savedWord := BitVec.sub_add_cancel _ _
      rw [← hsaved, ← hback, BitVec.toNat_add]
      rfl

/-! ## RegisterCPU: the fetch -/

theorem bytesFrom_append (c : RegCpu) (bs : List Byte) (a : DWord) (n : Nat) (hn : bs.length ≤ n)
    (h : ∀ k, (hk : k < bs.length) → c.byteAt (a + BitVec.ofNat 32 k) = bs[k]) :
    ∃ rest, c.bytesFrom a n = bs ++ rest := by
  induction bs generalizing a n with
  | nil => exact ⟨_, rfl⟩
  | cons b bs ih =>
    obtain ⟨m, rfl⟩ : ∃ m, n = m + 1 := ⟨n - 1, by simp at hn; omega⟩
    have hfirst : c.byteAt a = b := (congrArg c.byteAt (BitVec.add_zero a).symm).trans (h 0 (Nat.succ_pos _))
    have hmoved : ∀ k, (hk : k < bs.length) → c.byteAt (a + 1 + BitVec.ofNat 32 k) = bs[k] := by
      intro k hk
      have e : a + 1 + BitVec.ofNat 32 k = a + BitVec.ofNat 32 (k + 1) := by
        rw [BitVec.add_assoc]; congr 1; apply BitVec.eq_of_toNat_eq; simp; omega
      rw [e]
      exact h (k + 1) (by simp; omega)
    obtain ⟨rest, hrest⟩ := ih (a + 1) m (by simpa using hn) hmoved
    exact ⟨rest, by rw [RegCpu.bytesFrom, hfirst, hrest]; rfl⟩

/-- Nineteen bytes are enough for every instruction (R120), so a step reads the one that memory holds at `pc`. -/
theorem fetched_of_memory {c : RegCpu} {i : Instr} {bs : List Byte} (hwf : wellFormed i = true) (hcode : encode i = .bytes bs)
    (h : ∀ k, (hk : k < bs.length) → c.byteAt (c.pc + BitVec.ofNat 32 k) = bs[k]) :
    ∃ rest, decodeBytes c.fetched = .ok (i, rest) := by
  obtain ⟨rest, hrest⟩ := bytesFrom_append c bs c.pc maxBytes (encodedLength i bs hcode).2 h
  exact ⟨rest, by rw [RegCpu.fetched, hrest]; exact (decodeTakesExactlyItsBytes i bs rest hwf hcode).1⟩

/-- The check against `REGCPU_UNIMPLEMENTED` does not change what runs: the mnemonic is not in the set, or it is one of the
default set, whose meaning is the same fault (R424 step 1, R440). -/
theorem regStep_eq_exec {s : State} {i : Instr} {rest : List Byte} (hdec : decodeBytes s.reg.fetched = .ok (i, rest))
    (h : (∃ m, mnemonicOf i = some m ∧ m ∉ s.par.unimplemented) ∨ mnemonicOf i = none ∨
      s.par.unimplemented = Config.defaults.unimplemented) : regStep s = exec i s := by
  obtain ⟨m, hm, hset⟩ | hnone | hdefault := h
  · exact regStep_of_decoded hdec (missing_of_not_mem hm hset)
  · exact regStep_of_decoded hdec (missing_of_none hnone)
  · cases hmiss : s.missing i with
    | none => exact regStep_of_decoded hdec hmiss
    | some m =>
      obtain ⟨hm, hset⟩ := (missing_eq_some s i m).mp hmiss
      rw [exec_of_default_mem hm (hdefault ▸ hset) s]
      simp [regStep, hdec, hmiss]

/-- Settles O12: each core's step is its fetch, its decoder and `exec`. -/
theorem stepRunsDecodedInstruction : Obligations.StepRunsDecodedInstruction := by
  intro s
  constructor
  · intro hs
    refine ⟨step_stackNext hs, fun hidle htimes => ?_⟩
    exact step_of_beforeFetch hs ((beforeFetch_idle hidle).trans (timesPhase_off htimes)) htimes
  · intro hs i hset
    have hrun : ∀ rest, decodeBytes s.reg.fetched = .ok (i, rest) → step s = exec i s := fun rest hdec =>
      (step_regNext hs).trans (regStep_eq_exec hdec hset)
    refine ⟨hrun, fun bs hwf hcode hmem => ?_⟩
    obtain ⟨rest, hdec⟩ := fetched_of_memory hwf hcode hmem
    exact hrun rest hdec

/-- The check comes before `exec` (R424 step 1). -/
theorem step_of_missing {s : State} {i : Instr} {rest : List Byte} {m : RegMnemonic} (hs : regNext s)
    (hdec : decodeBytes s.reg.fetched = .ok (i, rest)) (hm : mnemonicOf i = some m) (hset : m ∈ s.par.unimplemented) :
    step s = .fault (.notImplementedOpcode m) := by
  rw [step_regNext hs]
  simp [regStep, hdec, (missing_eq_some s i m).mpr ⟨hm, hset⟩]

/-- Settles O59. -/
theorem unimplementedInstructionsStop : Obligations.UnimplementedInstructionsStop := fun _ _ _ _ =>
  ⟨⟨rfl, rfl, rfl, rfl, rfl, rfl, rfl, rfl⟩, fun _ _ _ hs hdec hm hset => step_of_missing hs hdec hm hset⟩

end Sys2Proof.Proofs
end

section
/-!
StackCPU instructions (R146 to R225): CALL and the branches, the shared evaluator, the ALU class and its shifts, the
refused words, the fetches and stores of the LLI class, the internal slots.
-/
namespace Sys2Proof.Proofs
open Sys2Proof Sys2Proof.Machine Sys2Proof.Laws

/-! ## CALL and branches -/

/-- The branch target as a number: the page of `pc`, and the address in it (R148). -/
theorem toNat_pageTarget (c : StackCpu) (a : BitVec 12) : (c.pageTarget a).toNat = c.pc.toNat / 4096 * 4096 + a.toNat := by
  have happ : (c.pageTarget a).toNat = (c.pc.extractLsb' 12 4).toNat <<< 12 ||| a.toNat := BitVec.toNat_append _ _
  have hpage : (c.pc.extractLsb' 12 4).toNat = c.pc.toNat / 4096 := by
    have hpc := c.pc.isLt
    simp only [BitVec.extractLsb'_toNat, Nat.shiftRight_eq_div_pow]; omega
  rw [happ, hpage, Nat.shiftLeft_eq, Nat.mul_comm, ← Nat.two_pow_add_eq_or_of_lt a.isLt, Nat.mul_comm]

/-- Settles O18. -/
theorem callAndBranchesComplete : Obligations.CallAndBranchesComplete := by
  intro s dest a
  refine ⟨⟨_, rfl, rfl, ?_, toNat_savedWord s.stack, wroteRs_cellWrite _ _ _ _ rfl⟩,
    ⟨s.stack.pageTarget a, toNat_pageTarget s.stack a, rfl, ?_, rfl⟩⟩
  · show (dest.setWidth 16).toNat = dest.toNat
    have hdest := dest.isLt
    rw [BitVec.toNat_setWidth]; omega
  · rfl

/-! ## The evaluator -/

/-- A sum below 2^17 is its 16 result bits and the carry (R170, R174). -/
theorem aluSum_spec (n : Nat) : (aluSum n).r.toNat = n % 65536 ∧ (aluSum n).cout.toNat = n / 65536 % 2 := by
  refine ⟨by simp [aluSum], ?_⟩
  simp [aluSum, Nat.toNat_testBit]

theorem toNat_not16 (w : Word) : (~~~w).toNat = 65535 - w.toNat := by simp [BitVec.toNat_not]

theorem bool_eq_decide_of_toNat {b : Bool} {p : Prop} [Decidable p] (h : b.toNat = 1 ↔ p) : b = decide p := by
  cases b
  · simpa using h
  · simpa using h

/-- Settles O19. -/
theorem evaluatorArithmetic : Obligations.EvaluatorArithmetic := by
  intro a y cin
  have ha := a.isLt
  have hy := y.isLt
  have hcin := Bool.toNat_lt cin
  have hsub : ∀ a y : Word, ∀ cin : Bool, aluFn .sub a y cin = aluSum (a.toNat + (65535 - y.toNat) + 1 + cin.toNat) := by
    intro a y cin; rw [← toNat_not16]; rfl
  have hsuby : ∀ cin, aluFn .suby a y cin = aluSum (y.toNat + (65535 - a.toNat) + 1 + cin.toNat) := by
    intro cin; rw [← toNat_not16]; rfl
  refine ⟨?_, ?_, ?_, ⟨?_, ?_⟩, rfl, rfl, rfl, rfl, rfl⟩
  · obtain ⟨hr, hc⟩ := aluSum_spec (a.toNat + y.toNat + cin.toNat)
    show (aluSum _).r.toNat + 65536 * (aluSum _).cout.toNat = _
    rw [hr, hc]; omega
  · rw [hsub]; exact aluSum_spec _
  · rw [hsuby]; exact aluSum_spec _
  · apply bool_eq_decide_of_toNat
    rw [hsub, (aluSum_spec _).2, Bool.toNat_false]; omega
  · apply bool_eq_decide_of_toNat
    rw [hsuby, (aluSum_spec _).2, Bool.toNat_false]; omega

/-! ## Pushes and pops -/

theorem onlyData_refl (c : StackCpu) : OnlyData c c := rfl

theorem pushed_refl (c : StackCpu) : Pushed c c false := ⟨rfl, rfl, rfl⟩

theorem popped_refl (c : StackCpu) : Popped c c false := ⟨rfl, rfl, rfl⟩

theorem onlyData_pushTN (c : StackCpu) : OnlyData c c.pushTN := rfl

theorem pushed_pushTN (c : StackCpu) : Pushed c c.pushTN true := ⟨rfl, rfl, wroteDs_cellWrite _ _ _ _ rfl⟩

/-! ## The ALU class -/

theorem exec_aluInstr (op : AluOp) (o : AluOpts) (s : State) : exec (aluInstr op o) s = aluClass s op o := by
  cases op <;> rfl

/-- The step flag counts with the functions that have a step condition (R176, R177): `ADD` tests the low bit of `n`, the
subtractions their carry. -/
theorem stepCondition_of_writesCarry {op : AluOp} (h : writesCarry op = true) (n : Word) (cout : Bool) :
    stepCondition op n cout = some (if op = .add then n.getLsbD 0 else cout) := by
  cases op
  case add | sub | suby => rfl
  case t | and | or | xor | y => cases h

theorem stackAdjust_push (c : StackCpu) (sa : Bool) :
    Pushed c (c.stackAdjust true sa) true ∧ OnlyData c (c.stackAdjust true sa) :=
  ⟨pushed_pushTN c, onlyData_pushTN c⟩

theorem stackAdjust_pop (c : StackCpu) (sa : Bool) :
    Popped c (c.stackAdjust false sa) sa ∧ OnlyData c (c.stackAdjust false sa) := by
  cases sa
  · exact ⟨popped_refl c, onlyData_refl c⟩
  · exact ⟨popped_dPopN c, onlyData_dPopN c⟩

/-- The stack adjust touches neither `t` nor `carry`. -/
theorem stackAdjust_t_carry (c : StackCpu) (tn sa : Bool) :
    (c.stackAdjust tn sa).t = c.t ∧ (c.stackAdjust tn sa).carry = c.carry := by
  cases tn
  · cases sa <;> exact ⟨rfl, rfl⟩
  · exact ⟨rfl, rfl⟩

/-- The operand of an ALU word as the statement writes it (R161). -/
theorem selectY_eq (c : StackCpu) (y : YSrc) :
    c.selectY y = (if y = .md then c.md else if y = .sr then c.sr else c.n) ∧ c.selectCin y = (y == .nc && c.carry) := by
  cases y <;> simp [StackCpu.selectY, StackCpu.selectCin]

theorem onlyData_evaluate {c u : StackCpu} (h : OnlyData c u) (op : AluOp) (y : Word) (cin step : Bool) :
    OnlyData c (u.evaluate op y cin step) :=
  congrArg (fun x : StackCpu => x.evaluate op y cin step) h

/-- What `Evaluate` writes to `t` (R172), for a word that is not refused. -/
theorem evaluate_t {c : StackCpu} {op : AluOp} {step : Bool} (h : step = true → writesCarry op = true) (y : Word)
    (cin : Bool) :
    (c.evaluate op y cin step).t =
      if step = true ∧ (if op = .add then c.n.getLsbD 0 else (aluFn op c.t y cin).cout) = false then c.t
      else (aluFn op c.t y cin).r := by
  cases step
  · simp [StackCpu.evaluate]
  · simp only [StackCpu.evaluate, stepCondition_of_writesCarry (h rfl), Bool.true_and, true_and]
    cases (if op = .add then c.n.getLsbD 0 else (aluFn op c.t y cin).cout) <;> rfl

/-- Settles O20: the state before the shift is the evaluation over the stack adjust. -/
theorem aluClassCompletes : Obligations.AluClassCompletes := by
  intro s op o hstep
  obtain ⟨hy, hcin⟩ := selectY_eq s.stack o.ysrc
  have hrefused : stepRefused op o = false := by
    unfold stepRefused
    cases hs : o.step
    · rfl
    · rw [hstep hs]; rfl
  obtain ⟨ht, hcarry⟩ := stackAdjust_t_carry s.stack o.tn o.sa
  refine ⟨(s.stack.stackAdjust o.tn o.sa).evaluate op (s.stack.selectY o.ysrc) (s.stack.selectCin o.ysrc) o.step, ?_, ?_,
    ?_, ?_, ?_⟩
  · rw [exec_aluInstr, aluClass, hrefused]; rfl
  · apply onlyData_evaluate
    cases o.tn
    · exact (stackAdjust_pop s.stack o.sa).2
    · exact (stackAdjust_push s.stack o.sa).2
  · cases o.tn
    · exact (stackAdjust_pop s.stack o.sa).1
    · exact (stackAdjust_push s.stack o.sa).1
  · rw [← hy, ← hcin, ← hcarry, ← ht]; rfl
  · rw [evaluate_t hstep, ht, hy, hcin]; rfl

/-! ## The shift micro-step -/

theorem toNat_append_bit {w : Nat} (x : BitVec w) (b : Bool) : (x ++ BitVec.ofBool b).toNat = 2 * x.toNat + b.toNat := by
  rw [BitVec.toNat_append, Nat.shiftLeft_eq, Nat.mul_comm, ← Nat.two_pow_add_eq_or_of_lt (BitVec.ofBool b).isLt]
  simp

theorem toNat_bit_append {w : Nat} (b : Bool) (x : BitVec w) : (BitVec.ofBool b ++ x).toNat = b.toNat * 2 ^ w + x.toNat := by
  rw [BitVec.toNat_append, Nat.shiftLeft_eq, Nat.mul_comm, ← Nat.two_pow_add_eq_or_of_lt x.isLt]
  simp [Nat.mul_comm]

theorem toNat_bit0 (w : Word) : (w.getLsbD 0).toNat = w.toNat % 2 := by
  rw [BitVec.getLsbD, Nat.toNat_testBit, Nat.pow_zero, Nat.div_one]

/-- A word shifted left by one with a bit coming in (R179). -/
theorem toNat_shiftIn_low (w : Word) (b : Bool) :
    (w.setWidth 15 ++ BitVec.ofBool b : BitVec (15 + 1)).toNat = 2 * (w.toNat % 32768) + b.toNat := by
  rw [toNat_append_bit, BitVec.toNat_setWidth]

/-- A word shifted right by one with a bit coming in (R180). -/
theorem toNat_shiftIn_high (w : Word) (b : Bool) :
    (BitVec.ofBool b ++ w.extractLsb' 1 15 : BitVec (1 + 15)).toNat = b.toNat * 32768 + w.toNat / 2 := by
  have hw := w.isLt
  have hhalf : (w.extractLsb' 1 15).toNat = w.toNat / 2 := by
    simp only [BitVec.extractLsb'_toNat, Nat.shiftRight_eq_div_pow]; omega
  rw [toNat_bit_append, hhalf]; omega

/-- Settles O21: each code is arithmetic on the halves of `t` and `n` and the bits between them. -/
theorem shiftMicroStep : Obligations.ShiftMicroStep := by
  intro c sh32 sh
  refine ⟨?_, ?_, ?_, ?_, ?_, ?_, ?_⟩
  · cases sh <;> cases sh32 <;> rfl
  · rintro rfl; rfl
  · rintro rfl
    have hsign : c.t.getLsbD 15 = decide (32768 ≤ c.t.toNat) := by
      apply bool_eq_decide_of_toNat
      have ht := c.t.isLt
      rw [toNat_bit15]; omega
    show { c with t := if c.t.getLsbD 15 then 0xFFFF#16 else 0#16 } = _
    simp only [hsign, decide_eq_true_eq]
  · rintro rfl rfl
    refine ⟨?_, rfl, rfl⟩
    refine (toNat_shiftIn_low c.t c.carry).trans ?_
    have hcarry := Bool.toNat_lt c.carry
    omega
  · rintro rfl rfl
    refine ⟨?_, rfl⟩
    show 2 * (c.t >>> 1).toNat + (c.t.getLsbD 0).toNat = _
    rw [toNat_bit0, BitVec.toNat_ushiftRight, Nat.shiftRight_eq_div_pow]; omega
  · rintro rfl rfl
    have ht : (c.shift true .left).t.toNat = 2 * (c.t.toNat % 32768) + (c.n.getLsbD 15).toNat := toNat_shiftIn_low _ _
    have hn : (c.shift true .left).n.toNat = 2 * (c.n.toNat % 32768) + c.carry.toNat := toNat_shiftIn_low _ _
    have hcarry : (c.shift true .left).carry.toNat = c.t.toNat / 32768 := toNat_bit15 c.t
    rw [ht, hn, hcarry, toNat_bit15]; omega
  · rintro rfl rfl
    have ht : (c.shift true .right).t.toNat = c.carry.toNat * 32768 + c.t.toNat / 2 := toNat_shiftIn_high _ _
    have hn : (c.shift true .right).n.toNat = (c.t.getLsbD 0).toNat * 32768 + c.n.toNat / 2 := toNat_shiftIn_high _ _
    have hcarry : (c.shift true .right).carry.toNat = c.n.toNat % 2 := toNat_bit0 c.n
    rw [ht, hn, hcarry, toNat_bit0]; omega

/-! ## Fetches and stores -/

theorem pushed_fold {c u : StackCpu} {tn : Bool} (h : Pushed c u tn) (op : AluOp) (a y : Word) (cin : Bool) :
    Pushed c (u.fold op a y cin) tn := h

/-- What a fetch does before the return bit (R191). -/
theorem fetchWith_completes (c : StackCpu) (op : AluOp) (tn ret : Bool) (v : Word) :
    ∃ u : StackCpu, c.fetchWith op tn ret v = u.retPost ret ∧ OnlyData c u ∧ Pushed c u tn ∧ Folded c u op c.t v false := by
  cases tn with
  | false =>
    exact ⟨_, rfl, onlyData_fold (onlyData_refl c) .., pushed_fold (pushed_refl c) .., folded_fold rfl ..⟩
  | true =>
    exact ⟨_, rfl, onlyData_fold (onlyData_pushTN c) .., pushed_fold (pushed_pushTN c) .., folded_fold (pushTN_carry c) ..⟩

/-- What a store does after the store action and before the return bit (R192); `v` is the value stored. -/
theorem storeWith_completes (c : StackCpu) (op : AluOp) (tn ret : Bool) (y : Word) :
    ∃ u : StackCpu, c.storeWith op tn ret y = u.retPost ret ∧ OnlyData c u ∧ Popped c u tn ∧ Folded c u op c.t y false := by
  cases tn with
  | false =>
    exact ⟨_, rfl, onlyData_fold (onlyData_refl c) .., popped_fold (popped_refl c) .., folded_fold rfl ..⟩
  | true =>
    obtain ⟨hdata, hpopped, hfolded⟩ := dPopN_fold_completes c op c.t y
    exact ⟨_, rfl, hdata, hpopped, hfolded⟩

theorem ofNat16_toNat5 (a : BitVec 5) : BitVec.ofNat 16 a.toNat = a.setWidth 16 := by
  rw [BitVec.ofNat_toNat]

/-- Settles O24: all four are one fetch with the form's value. -/
theorem fetchesComplete : Obligations.FetchesComplete := by
  intro s op tn ret sa a5 slot Fetches
  have fetches : ∀ (ins : Instr) (c : StackCpu) (v : Word), c.t = s.stack.t →
      exec ins s = .next { s with stack := c.fetchWith op tn ret v } → Fetches ins c v := by
    intro ins c v ht hexec
    obtain ⟨u, hu, hdata, hpushed, hfolded⟩ := fetchWith_completes c op tn ret v
    exact ⟨u, by rw [hexec, hu], hdata, hpushed, ht ▸ hfolded⟩
  rw [ofNat16_toNat5]
  exact ⟨fetches _ _ _ rfl rfl, fetches _ _ _ rfl rfl, fetches _ _ _ rfl rfl, fetches _ _ _ rfl rfl⟩

@[simp] theorem intWrite_t (c : StackCpu) (slot : Fin 16) (v : Word) : (c.intWrite slot v).t = c.t := by
  unfold StackCpu.intWrite
  split
  case h_9 => rw [bOut_frame]
  case h_13 => rw [xOut_frame]
  all_goals rfl

theorem intWrite_timesmode (c : StackCpu) (slot : Fin 16) (v : Word) : (c.intWrite slot v).timesmode = c.timesmode := by
  unfold StackCpu.intWrite
  split
  case h_9 => rw [bOut_frame]
  case h_13 => rw [xOut_frame]
  all_goals rfl

/-- Settles O25: all three are one store after the form's store action. -/
theorem storesComplete : Obligations.StoresComplete := by
  intro s op tn ret sa a5 slot Stores
  have stores : ∀ (ins : Instr) (c : StackCpu) (y : Word), c.t = s.stack.t →
      exec ins s = .next { s with stack := c.storeWith op tn ret y } → Stores ins c y := by
    intro ins c y ht hexec
    obtain ⟨u, hu, hdata, hpopped, hfolded⟩ := storeWith_completes c op tn ret y
    exact ⟨u, by rw [hexec, hu], hdata, hpopped, ht ▸ hfolded⟩
  refine ⟨⟨s.stack.progWrite (a5.setWidth 16) s.stack.t, rfl, fun w => ?_, stores _ _ _ rfl rfl⟩,
    stores _ _ _ (intWrite_t ..) rfl, stores _ _ _ (intWrite_t ..) rfl⟩
  have haddr : (a5.setWidth 16).toNat = a5.toNat := by
    have ha := a5.isLt
    rw [BitVec.toNat_setWidth]; omega
  rw [progRead_progWrite, ← haddr]
  simp only [BitVec.toNat_inj]

/-- Settles O17: the slot is written and `t` stored with the latch set, so the return bit does nothing. -/
theorem timesBegins : Obligations.TimesBegins := by
  intro s op tn ret slot
  obtain ⟨u, hu, hdata, hpopped, hfolded⟩ :=
    storeWith_completes (s.stack.timesBegin.intWrite slot s.stack.t) op tn ret s.stack.n
  have htimes : u.timesmode = true := by
    have hkept : u.timesmode = (s.stack.timesBegin.intWrite slot s.stack.t).timesmode := by rw [hdata]
    rw [hkept, intWrite_timesmode, timesBegin_timesmode]
  rw [retPost_eq_self (.inr htimes)] at hu
  rw [intWrite_t, timesBegin_t] at hfolded
  refine ⟨s.stack.timesBegin, u, ?_, rfl, wroteRs_cellWrite _ _ _ _ rfl, hdata, hpopped, hfolded⟩
  rw [← hu]; rfl

/-! ## Masks and fields of a word -/

theorem and_eq_iff {n : Nat} {w m v : BitVec n} : w &&& m = v ↔ ∀ i < n, (w.getLsbD i && m.getLsbD i) = v.getLsbD i := by
  constructor
  · rintro rfl i hi; rw [BitVec.getLsbD_and]
  · intro h; exact BitVec.eq_of_getLsbD_eq fun i hi => by rw [BitVec.getLsbD_and]; exact h i hi

/-- A flag of a word is its bit. -/
theorem flagBit_toNat_eq (w : Word) (k : Nat) : flagBit w.toNat k = w.getLsbD k := by
  apply flagBit_of_bits
  simp only [BitVec.getLsbD, Nat.toNat_testBit, bits]
  rw [show k + 1 - k = 1 by omega, pow_one]

/-- A field of two bits, from its bits. -/
theorem bits_two (w : Word) (k : Nat) :
    bits w.toNat (k + 1) k = (w.getLsbD k).toNat + 2 * (w.getLsbD (k + 1)).toNat := by
  simp only [BitVec.getLsbD, Nat.toNat_testBit, bits, Nat.pow_add, ← Nat.div_div_eq_div_mul]
  rw [show k + 1 + 1 - k = 2 by omega]
  omega

/-- A field of three bits, from its bits. -/
theorem bits_three (w : Word) (k : Nat) :
    bits w.toNat (k + 2) k =
      (w.getLsbD k).toNat + 2 * (w.getLsbD (k + 1)).toNat + 4 * (w.getLsbD (k + 2)).toNat := by
  simp only [BitVec.getLsbD, Nat.toNat_testBit, bits, Nat.pow_add, ← Nat.div_div_eq_div_mul]
  rw [show k + 2 + 1 - k = 3 by omega]
  omega

/-- A field of four bits, from its bits. -/
theorem bits_four (w : Word) (k : Nat) :
    bits w.toNat (k + 3) k = (w.getLsbD k).toNat + 2 * (w.getLsbD (k + 1)).toNat + 4 * (w.getLsbD (k + 2)).toNat +
      8 * (w.getLsbD (k + 3)).toNat := by
  simp only [BitVec.getLsbD, Nat.toNat_testBit, bits, Nat.pow_add, ← Nat.div_div_eq_div_mul]
  rw [show k + 3 + 1 - k = 4 by omega]
  omega

/-- An ALU word with the step flag (R102, R104). -/
theorem aluStep_iff (w : Word) : w &&& 0xF008 = 0x8008 ↔ bits w.toNat 15 12 = 8 ∧ flagBit w.toNat 3 = true := by
  rw [and_eq_iff, bits_four w 12, flagBit_toNat_eq]
  simp only [Nat.forall_lt_succ_right, Nat.not_lt_zero, false_imp_iff]
  generalize w.getLsbD 3 = b3, w.getLsbD 12 = b12, w.getLsbD (12 + 1) = b13, w.getLsbD (12 + 2) = b14, w.getLsbD (12 + 3) = b15
  simp
  revert b3 b12 b13 b14 b15
  decide

/-- The word of the reserved store (R205). -/
theorem store3_iff (w : Word) : w &&& 0xF180 = 0xD180 ↔ bits w.toNat 15 12 = 13 ∧ bits w.toNat 8 7 = 3 := by
  rw [and_eq_iff, bits_four w 12, bits_two w 7]
  simp only [Nat.forall_lt_succ_right, Nat.not_lt_zero, false_imp_iff]
  generalize w.getLsbD 7 = b7, w.getLsbD (7 + 1) = b8, w.getLsbD 12 = b12, w.getLsbD (12 + 1) = b13,
    w.getLsbD (12 + 2) = b14, w.getLsbD (12 + 3) = b15
  simp
  revert b7 b8 b12 b13 b14 b15
  decide

/-- The function codes 2, 4 and 6 (R105). -/
theorem aluCode_iff (w : Word) :
    (w &&& 0x0E00 = 0x0400 ↔ bits w.toNat 11 9 = 2) ∧ (w &&& 0x0E00 = 0x0800 ↔ bits w.toNat 11 9 = 4) ∧
    (w &&& 0x0E00 = 0x0C00 ↔ bits w.toNat 11 9 = 6) := by
  rw [and_eq_iff, and_eq_iff, and_eq_iff, bits_three w 9]
  simp only [Nat.forall_lt_succ_right, Nat.not_lt_zero, false_imp_iff]
  generalize w.getLsbD 9 = b9, w.getLsbD (9 + 1) = b10, w.getLsbD (9 + 2) = b11
  simp
  revert b9 b10 b11
  decide

/-! ## The refused words -/

theorem writesCarry_iff (op : AluOp) : writesCarry op = true ↔ op = .add ∨ op = .sub ∨ op = .suby := by
  cases op <;> simp [writesCarry]

theorem writesCarry_ofCode {k : Nat} (h : k < 8) : writesCarry (AluOp.ofCode k) = true ↔ k = 2 ∨ k = 4 ∨ k = 6 := by
  interval_cases k <;> decide

/-- An ALU-class instruction is refused or completes, by the step flag (R177). -/
theorem exec_aluInstr_refused {op : AluOp} {o : AluOpts} (h : stepRefused op o = true) (s : State) :
    exec (aluInstr op o) s = .refused .stepFlagWithoutCondition := by
  rw [exec_aluInstr, aluClass, if_pos h]

theorem exec_aluInstr_next {op : AluOp} {o : AluOpts} (h : stepRefused op o = false) (s : State) :
    exec (aluInstr op o) s = .next { s with stack := s.stack.aluSteps op o } := by
  rw [exec_aluInstr, aluClass, h]; rfl

theorem decodeAlu_eq (w : Nat) : decodeAlu w = aluInstr (AluOp.ofCode (bits w 11 9)) (AluOpts.ofCode w) := by
  unfold decodeAlu; cases AluOp.ofCode (bits w 11 9) <;> rfl

theorem decodeWord_alu {w : Word} (h : bits w.toNat 15 12 = 8) :
    decodeWord w = aluInstr (AluOp.ofCode (bits w.toNat 11 9)) (AluOpts.ofCode w.toNat) := by
  simp only [decodeWord, h, decodeAlu_eq]

/-- The words of classes 1100 to 1111 but the reserved store all complete (R109). -/
theorem exec_decodeLliMem_next {w : Nat} (h : bits w 13 12 = 1 → bits w 8 7 ≠ 3) (s : State) :
    ∃ u : StackCpu, exec (decodeLliMem w) s = .next { s with stack := u } := by
  have hios : bits w 8 7 < 4 := by simpa using bits_lt w 8 7
  unfold decodeLliMem
  simp only
  split
  case h_6 => split <;> exact ⟨_, rfl⟩
  case h_8 hcls h0 h1 h2 =>
    have hne := h hcls
    simp only [imp_false] at h0 h1 h2
    omega
  all_goals exact ⟨_, rfl⟩

theorem decodeWord_lliReserved {w : Word} (hcls : bits w.toNat 15 12 = 13) (hios : bits w.toNat 8 7 = 3) :
    decodeWord w = .lliReserved (AluOp.ofCode (bits w.toNat 11 9)) (flagBit w.toNat 6) (flagBit w.toNat 5)
      (BitVec.ofNat 5 w.toNat) := by
  have hlow : bits w.toNat 13 12 = 1 := by simp only [bits] at hcls ⊢; omega
  simp only [decodeWord, decodeLliMem, hcls, hlow, hios]

/-- Every word but the ALU words that R177 refuses and the reserved store completes, class by class. -/
theorem exec_decodeWord_next {w : Word} (hstep : bits w.toNat 15 12 = 8 →
      stepRefused (AluOp.ofCode (bits w.toNat 11 9)) (AluOpts.ofCode w.toNat) = false)
    (hstore : bits w.toNat 15 12 = 13 → bits w.toNat 8 7 ≠ 3) (s : State) :
    ∃ u : StackCpu, exec (decodeWord w) s = .next { s with stack := u } := by
  have lli : 12 ≤ bits w.toNat 15 12 → ∃ u : StackCpu, exec (decodeLliMem w.toNat) s = .next { s with stack := u } := by
    intro h12
    refine exec_decodeLliMem_next (fun h => hstore ?_) s
    simp only [bits] at h h12 ⊢; omega
  unfold decodeWord
  simp only
  split
  case h_1 h => exact ⟨_, by rw [decodeAlu_eq]; exact exec_aluInstr_next (hstep h) s⟩
  case h_5 h | h_6 h | h_7 h | h_8 h => exact lli (by omega)
  all_goals exact ⟨_, rfl⟩

/-- Settles O23: the masks are fields, and the fields say which arm of the decoder and of the ALU class is taken. -/
theorem refusedEncodings : Obligations.RefusedEncodings := by
  intro s op o tn ret a5 w aluStep store3
  obtain ⟨hsub, hadd, hsuby⟩ := aluCode_iff w
  have hcode : bits w.toNat 11 9 < 8 := by simpa using bits_lt w.toNat 11 9
  have hstepFlag : (AluOpts.ofCode w.toNat).step = flagBit w.toNat 3 := rfl
  have haluStep : aluStep ↔ bits w.toNat 15 12 = 8 ∧
      stepRefused (AluOp.ofCode (bits w.toNat 11 9)) (AluOpts.ofCode w.toNat) = true := by
    have hcarry := writesCarry_ofCode hcode
    simp only [aluStep, aluStep_iff, hsub, hadd, hsuby, ne_eq, stepRefused, hstepFlag, Bool.and_eq_true,
      Bool.not_eq_true', ← Bool.not_eq_true, hcarry, not_or, and_assoc]
  refine ⟨?_, rfl, fun h => ?_, fun h => ?_, fun h1 h2 => ?_⟩
  · have hcarry := writesCarry_iff op
    cases hr : stepRefused op o with
    | true =>
      rw [exec_aluInstr_refused hr]
      simp only [stepRefused, Bool.and_eq_true, Bool.not_eq_true', ← Bool.not_eq_true, hcarry, not_or] at hr
      exact ⟨fun _ => hr, fun _ => rfl⟩
    | false =>
      rw [exec_aluInstr_next hr]
      constructor
      · intro h; cases h
      · rintro ⟨hs, h1, h2, h3⟩
        simp only [stepRefused, hs, Bool.true_and, Bool.not_eq_false', hcarry] at hr
        tauto
  · obtain ⟨hcls, hr⟩ := haluStep.mp h
    rw [decodeWord_alu hcls, exec_aluInstr_refused hr]
  · obtain ⟨hcls, hios⟩ := (store3_iff w).mp h
    rw [decodeWord_lliReserved hcls hios]; rfl
  · refine exec_decodeWord_next (fun hcls => ?_) (fun hcls hios => h2 ((store3_iff w).mpr ⟨hcls, hios⟩)) s
    exact Bool.eq_false_iff.mpr fun hr => h1 (haluStep.mpr ⟨hcls, hr⟩)

/-! ## The internal slots -/

/-- A masked write, bit by bit (R219): a mask bit protects its data bit. -/
theorem getLsbD_masked {w : Nat} (data mask v : BitVec w) {k : Nat} (hk : k < w) :
    ((data &&& mask) ||| (v &&& ~~~mask)).getLsbD k = if mask.getLsbD k then data.getLsbD k else v.getLsbD k := by
  rw [BitVec.getLsbD_or, BitVec.getLsbD_and, BitVec.getLsbD_and, BitVec.getLsbD_not, decide_eq_true hk]
  cases mask.getLsbD k <;> simp

/-- What a port slot reads, bit by bit (R218): a direction bit of 0 lets the pin in. -/
theorem getLsbD_portRead {w : Nat} (data dir pins : BitVec w) {k : Nat} (hk : k < w) :
    (data ^^^ (pins &&& ~~~dir)).getLsbD k = (data.getLsbD k ^^ (!dir.getLsbD k && pins.getLsbD k)) := by
  simp [hk, Bool.and_comm]

theorem bOut_eq (c : StackCpu) :
    c.bOut = { c with io := { c.io with outs := c.io.outs ++ if c.io.bOutBound then [.b c.bdata] else [] } } := by
  unfold StackCpu.bOut
  split
  · rfl
  · rw [List.append_nil]

theorem xOut_eq (c : StackCpu) :
    c.xOut = { c with io := { c.io with outs := c.io.outs ++ if c.io.xOutBound then [.x c.xdata] else [] } } := by
  unfold StackCpu.xOut
  split
  · rfl
  · rw [List.append_nil]

theorem setWidth_eq_extractLsb' {w n : Nat} (v : BitVec w) : v.setWidth n = v.extractLsb' 0 n := by ext i hi; simp

theorem toNat_setWidth16 (x : BitVec 5) : (x.setWidth 16).toNat = x.toNat := by
  have hx := x.isLt
  rw [BitVec.toNat_setWidth]; omega

/-- Settles O26: the two data slots bit by bit, the others by their equations. -/
theorem internalSlots : Obligations.InternalSlots := by
  intro c v
  refine ⟨⟨?_, ?_, rfl, rfl, rfl, rfl, rfl, rfl⟩, ⟨rfl, rfl, rfl, rfl, rfl, rfl, rfl, rfl⟩,
    ⟨(c.bdata &&& c.bmask) ||| (v &&& ~~~c.bmask), ?_, fun k hk => getLsbD_masked _ _ _ hk,
      fun k hk => getLsbD_portRead _ _ _ hk⟩,
    ⟨(c.xdata &&& c.xmask) ||| (v.setWidth 5 &&& ~~~c.xmask), ?_, fun k hk => ?_, fun k hk => ?_⟩,
    ⟨rfl, rfl, rfl, rfl, rfl, rfl⟩, ?_⟩
  · rw [← setWidth_eq_extractLsb']; rfl
  · have happ : (c.intRead 0).toNat = c.k.toNat <<< 8 ||| c.j.toNat := BitVec.toNat_append _ _
    rw [happ, Nat.shiftLeft_eq, Nat.mul_comm, ← Nat.two_pow_add_eq_or_of_lt c.j.isLt, Nat.mul_comm]
  · exact bOut_eq _
  · exact xOut_eq _
  · rw [getLsbD_masked _ _ _ hk, BitVec.getLsbD_setWidth, decide_eq_true hk, Bool.true_and]
  · show ((c.xdata ^^^ (c.xPins &&& ~~~c.xdir)).setWidth 16).getLsbD k = _
    rw [BitVec.getLsbD_setWidth, decide_eq_true hk, Bool.true_and]
    by_cases h5 : k < 5
    · rw [getLsbD_portRead _ _ _ h5, decide_eq_true h5, Bool.true_and]; rfl
    · rw [BitVec.getLsbD_of_ge _ _ (by omega), decide_eq_false h5, Bool.false_and]
  · rw [← setWidth_eq_extractLsb']
    exact ⟨rfl, toNat_setWidth16 _, rfl, toNat_setWidth16 _, rfl, toNat_setWidth16 _⟩

end Sys2Proof.Proofs
end

section
/-!
Frames on the RegisterCPU stack: what two pushes leave, the entry through a descriptor, the entry into a trap and the return
from it (R249, R284, R286, R421), and the external calls built from them.
-/
namespace Sys2Proof.Proofs
open Sys2Proof Sys2Proof.Machine Sys2Proof.Laws

/-! ## Addresses near one another -/

/-- Two offsets from one address meet only where they are equal. -/
theorem add_ofNat_inj {p : DWord} {i j : Nat} (hi : i < 2 ^ 32) (hj : j < 2 ^ 32) :
    p + BitVec.ofNat 32 i = p + BitVec.ofNat 32 j ↔ i = j := by
  constructor
  · intro h
    have hn := congrArg BitVec.toNat (BitVec.add_right_inj p |>.mp h)
    rwa [BitVec.toNat_ofNat, BitVec.toNat_ofNat, Nat.mod_eq_of_lt hi, Nat.mod_eq_of_lt hj] at hn
  · rintro rfl; rfl

theorem add_ofNat_add (p : DWord) (i j : Nat) : p + BitVec.ofNat 32 i + BitVec.ofNat 32 j = p + BitVec.ofNat 32 (i + j) := by
  rw [BitVec.add_assoc, BitVec.ofNat_add]

/-- An offset beyond a stretch lies outside it. -/
theorem outside_add {len i : Nat} {p : DWord} (hlo : len ≤ i) (hi : i < 2 ^ 32) : outside len p (p + BitVec.ofNat 32 i) := by
  intro k hk h
  have := (add_ofNat_inj hi (by omega)).mp h
  omega

/-- Outside a stretch is outside each of its parts. -/
theorem outside_part {len m j : Nat} {p x : DWord} (h : outside len p x) (hm : j + m ≤ len) :
    outside m (p + BitVec.ofNat 32 j) x := by
  intro k hk
  rw [add_ofNat_add]
  exact h (j + k) (by omega)

/-- A read depends on the bytes read only. -/
theorem read32_eq_of_bytes {c t : RegCpu} {a : DWord} (h : ∀ k < 4, t.byteAt (a + BitVec.ofNat 32 k) = c.byteAt (a + BitVec.ofNat 32 k)) :
    t.read32 a = c.read32 a := by
  have h0 := h 0 (by decide)
  have h1 := h 1 (by decide)
  have h2 := h 2 (by decide)
  have h3 := h 3 (by decide)
  have e3 : a + 2 + 1 = a + BitVec.ofNat 32 3 := by rw [BitVec.add_assoc]; rfl
  simp only [BitVec.add_zero] at h0 h1 h2
  simp only [RegCpu.read32, RegCpu.read16, BitVec.ofNat_eq_ofNat] at e3 ⊢
  rw [e3, h0, h1, h2, h3]

/-- A double word is its two halves. -/
theorem read16_eq_low (c : RegCpu) (a : DWord) : c.read16 a = (c.read32 a).setWidth 16 := by
  unfold RegCpu.read32; rw [BitVec.setWidth_append]; simp

theorem read16_eq_high (c : RegCpu) (a : DWord) : c.read16 (a + 2) = (c.read32 a).extractLsb' 16 16 := by
  unfold RegCpu.read32; rw [BitVec.extractLsb'_append_eq_left]

/-! ## Pushes over an item -/

theorem byteAt_push32_above (c : RegCpu) (v : DWord) {i : Nat} (hi : i < 2 ^ 32 - 4) :
    (c.push32 v).byteAt (c.sp + BitVec.ofNat 32 i) = c.byteAt (c.sp + BitVec.ofNat 32 i) := by
  have e : c.sp + BitVec.ofNat 32 i = (c.push32 v).sp + BitVec.ofNat 32 (4 + i) := by
    rw [← add_ofNat_add, push32_sp, BitVec.sub_add_cancel]
  rw [e]
  exact byteAt_push32_outside _ _ _ (outside_add (by omega) (by omega))

theorem read32_push32_above (c : RegCpu) (v : DWord) {i : Nat} (hi : i < 2 ^ 32 - 8) :
    (c.push32 v).read32 (c.sp + BitVec.ofNat 32 i) = c.read32 (c.sp + BitVec.ofNat 32 i) := by
  refine read32_eq_of_bytes fun k hk => ?_
  rw [add_ofNat_add]
  exact byteAt_push32_above _ _ (by omega)

/-- What two pushes leave: the two dwords, the other pointer, every byte above and below them. -/
theorem push32_push32_spec (c : RegCpu) (v w : DWord) :
    ((c.push32 v).push32 w).sp = c.sp - 8 ∧ ((c.push32 v).push32 w).otherSp = c.otherSp ∧
    ((c.push32 v).push32 w).read32 (c.sp - 4) = v ∧ ((c.push32 v).push32 w).read32 (c.sp - 8) = w ∧
    ∀ x, outside 8 (c.sp - 8) x → ((c.push32 v).push32 w).byteAt x = c.byteAt x := by
  have hsp1 : (c.push32 v).sp = c.sp - 4 := push32_sp c v
  have hsp : ((c.push32 v).push32 w).sp = c.sp - 8 := by
    rw [push32_sp, hsp1]; bv_omega
  have hfour : c.sp - 8 + BitVec.ofNat 32 4 = c.sp - 4 := by bv_omega
  refine ⟨hsp, by simp, ?_, ?_, fun x hx => ?_⟩
  · have habove := read32_push32_above (c.push32 v) w (i := 0) (by decide)
    rw [BitVec.add_zero, read32_push32, hsp1] at habove
    exact habove
  · rw [← hsp, read32_push32]
  · have hlow : outside 4 ((c.push32 v).push32 w).sp x := by
      have := outside_part (j := 0) (m := 4) hx (by decide)
      rw [hsp]
      rwa [BitVec.add_zero] at this
    have hhigh : outside 4 (c.push32 v).sp x := by
      have := outside_part (j := 4) (m := 4) hx (by decide)
      rwa [hfour, ← hsp1] at this
    rw [byteAt_push32_outside _ _ _ hlow, byteAt_push32_outside _ _ _ hhigh]

/-! ## Entering a procedure -/

/-- The descriptor names the module and the offset; `sb` and `pc` come from the module's table (R284). -/
theorem enterDescriptor_spec (c : RegCpu) (desc : DWord) :
    (c.enterDescriptor desc).mod.toNat = desc.toNat % 65536 ∧
    (c.enterDescriptor desc).sb = c.read32 (BitVec.ofNat 32 (c.enterDescriptor desc).mod.toNat) ∧
    (c.enterDescriptor desc).pc =
      c.read32 (BitVec.ofNat 32 (c.enterDescriptor desc).mod.toNat + 8) + BitVec.ofNat 32 (desc.toNat / 65536) := by
  have hhigh : (desc.extractLsb' 16 16).setWidth 32 = BitVec.ofNat 32 (desc.toNat / 65536) := by
    have := desc.isLt
    apply BitVec.eq_of_toNat_eq
    rw [BitVec.toNat_setWidth, BitVec.extractLsb'_toNat, BitVec.toNat_ofNat, Nat.shiftRight_eq_div_pow]
    omega
  refine ⟨by rw [enterDescriptor_mod, BitVec.toNat_setWidth], ?_, ?_⟩
  · rw [enterDescriptor_sb, enterDescriptor_mod, BitVec.ofNat_toNat]
  · rw [enterDescriptor_pc, enterDescriptor_mod, BitVec.ofNat_toNat, hhigh]

@[simp] theorem enterDescriptor_read32 (c : RegCpu) (desc a : DWord) : (c.enterDescriptor desc).read32 a = c.read32 a := rfl
@[simp] theorem enterDescriptor_byteAt (c : RegCpu) (desc a : DWord) : (c.enterDescriptor desc).byteAt a = c.byteAt a := rfl
@[simp] theorem enterDescriptor_sp (c : RegCpu) (desc : DWord) : (c.enterDescriptor desc).sp = c.sp := rfl
@[simp] theorem enterDescriptor_otherSp (c : RegCpu) (desc : DWord) : (c.enterDescriptor desc).otherSp = c.otherSp := rfl

theorem modAddr_eq (c : RegCpu) : c.modAddr = BitVec.ofNat 32 c.mod.toNat := by
  unfold RegCpu.modAddr; rw [BitVec.ofNat_toNat]

/-! ## External calls -/

/-- `CXP` (R284) and `CXPD` (R321): a frame of two dwords, then the procedure of the descriptor. -/
theorem callDescriptor_frame (c : RegCpu) (desc ret : DWord) :
    (c.callDescriptor desc ret).sp = c.sp - 8 ∧ (c.callDescriptor desc ret).otherSp = c.otherSp ∧
    (c.callDescriptor desc ret).read32 (c.sp - 4) = c.modAddr ∧ (c.callDescriptor desc ret).read32 (c.sp - 8) = ret ∧
    ∀ x, outside 8 (c.sp - 8) x → (c.callDescriptor desc ret).byteAt x = c.byteAt x := by
  unfold RegCpu.callDescriptor
  simp only [enterDescriptor_sp, enterDescriptor_otherSp, enterDescriptor_read32, enterDescriptor_byteAt]
  exact push32_push32_spec c c.modAddr ret

theorem callDescriptor_eq (c : RegCpu) (desc ret : DWord) :
    c.callDescriptor desc ret =
      { c with pc := (c.callDescriptor desc ret).pc, sb := (c.callDescriptor desc ret).sb,
               mod := (c.callDescriptor desc ret).mod, sp0 := (c.callDescriptor desc ret).sp0,
               sp1 := (c.callDescriptor desc ret).sp1, mem := (c.callDescriptor desc ret).mem } := by
  apply RegCpu.ext <;> simp [RegCpu.callDescriptor]

/-- The new module, its `sb` and the target, read after the pushes. -/
theorem callDescriptor_target (c : RegCpu) (desc ret : DWord) :
    (c.callDescriptor desc ret).mod.toNat = desc.toNat % 65536 ∧
    (c.callDescriptor desc ret).sb =
      (c.callDescriptor desc ret).read32 (BitVec.ofNat 32 (c.callDescriptor desc ret).mod.toNat) ∧
    (c.callDescriptor desc ret).pc =
      (c.callDescriptor desc ret).read32 (BitVec.ofNat 32 (c.callDescriptor desc ret).mod.toNat + 8) +
        BitVec.ofNat 32 (desc.toNat / 65536) := by
  unfold RegCpu.callDescriptor
  exact enterDescriptor_spec _ desc

theorem exec_cxpd {s : State} {i : Size} {g : Gen} {o : Opnd} {ea : DWord} (hi : i ≠ .undef) (ho : s.reg.resolve g = .ok o)
    (hea : s.reg.addrOf o = .ok ea) :
    exec (.cxpd i g) s =
      .next { s with reg := s.reg.callDescriptor (s.reg.read32 ea) (s.reg.pc + BitVec.ofNat 32 (2 + g.len)) } := by
  show finishReg s (guarded (sized i) (s.reg.addrOne g fun ea => s.reg.callDescriptor (s.reg.read32 ea)
    (s.reg.pc + BitVec.ofNat 32 (2 + g.len)))) = _
  rw [sized_ne hi, guarded_true, addrOne_ok ho hea, finishReg_ok]

theorem drop32_drop32 (c : RegCpu) : c.drop32.drop32 = c.setSp (c.sp + 8) := by
  have hsp : c.drop32.sp + 4#32 = c.sp + 8 := by rw [drop32_sp, BitVec.add_assoc]; rfl
  calc c.drop32.drop32 = c.drop32.setSp (c.drop32.sp + 4#32) := rfl
    _ = (c.setSp (c.sp + 4#32)).setSp (c.sp + 8) := by rw [hsp]; rfl
    _ = c.setSp (c.sp + 8) := setSp_setSp ..

theorem drop32_top32 (c : RegCpu) : c.drop32.top32 = c.read32 (c.sp + 4) := by
  show c.drop32.read32 c.drop32.sp = _
  rw [drop32_sp]
  exact read32_congr (drop32_mem c) _

/-- `RXP` (R285): two dwords popped, `sb` from the restored module's table. -/
theorem exec_rxp (d : Disp) (s : State) :
    exec (.rxp d) s = .next { s with reg :=
      { s.reg.setSp (s.reg.sp + 8 + d.value) with
        pc := s.reg.read32 s.reg.sp
        mod := (s.reg.read32 (s.reg.sp + 4)).setWidth 16
        sb := s.reg.read32 (((s.reg.read32 (s.reg.sp + 4)).setWidth 16).setWidth 32) } } := by
  have hread (v a b : DWord) : ((s.reg.setSp v).goto b).read32 a = s.reg.read32 a := read32_congr (by simp) a
  show Host.Outcome.next _ = _
  rw [drop32_drop32, drop32_top32]
  dsimp only
  rw [loadModule_sp, goto_sp, setSp_sp]
  congr 2
  have htop : s.reg.top32 = s.reg.read32 s.reg.sp := rfl
  apply RegCpu.ext <;> cases hS : psrBit s.reg.psr bitS <;> simp [setSp_sp0, setSp_sp1, hread, hS, htop]

/-- Settles O33: the calls are two pushes and the entry through the descriptor, the return two pops. -/
theorem externalCallAndReturn : Obligations.ExternalCallAndReturn := by
  intro s
  refine ⟨?_, fun d => ⟨_, exec_rxp d s, ?_, ?_, ?_, ?_, ?_⟩⟩
  · intro Calls
    have calls : ∀ (ins : Instr) (desc : DWord) (len : Nat),
        exec ins s = .next { s with reg := s.reg.callDescriptor desc (s.reg.pc + BitVec.ofNat 32 len) } →
        Calls ins desc len := by
      intro ins desc len h
      have heq := callDescriptor_eq s.reg desc (s.reg.pc + BitVec.ofNat 32 len)
      obtain ⟨hsp, hother, hmod, hret, hbytes⟩ := callDescriptor_frame s.reg desc (s.reg.pc + BitVec.ofNat 32 len)
      have htarget := callDescriptor_target s.reg desc (s.reg.pc + BitVec.ofNat 32 len)
      rw [← hsp] at hret hbytes
      rw [modAddr_eq] at hmod
      exact ⟨_, h, heq, hsp, hother, hmod, hret, hbytes, htarget⟩
    refine ⟨fun d => ?_, fun i g o ea hi ho hea => calls _ _ _ (exec_cxpd hi ho hea)⟩
    rw [← modAddr_eq]
    exact calls _ _ _ rfl
  · apply RegCpu.ext <;> simp
  · exact BitVec.toNat_setWidth ..
  · rw [BitVec.ofNat_toNat]
  · exact setSp_sp ..
  · exact setSp_otherSp ..

/-! ## Trap entry and trap return -/

/-- The frame of a trap (R421): two pushes on `sp[0]`, since `S` is clear by then. -/
theorem trapFrame_bytes (c : RegCpu) :
    c.trapFrame.read32 (c.sp0 - 4) = c.psr ++ c.mod ∧ c.trapFrame.read32 (c.sp0 - 8) = c.pc ∧
    ∀ x, outside 8 (c.sp0 - 8) x → c.trapFrame.byteAt x = c.byteAt x := by
  have hS : psrBit (c.psr &&& Config.trapPsrKeep) bitS = false := by rw [trapKeep_bit]; simp
  have hsp0 : (c.withPsr (c.psr &&& Config.trapPsrKeep)).sp = c.sp0 := by simp [RegCpu.sp, hS]
  obtain ⟨-, -, hframe, hpc, hbytes⟩ := push32_push32_spec (c.withPsr (c.psr &&& Config.trapPsrKeep)) (c.psr ++ c.mod) c.pc
  rw [hsp0] at hframe hpc hbytes
  exact ⟨hframe, hpc, hbytes⟩

/-- The registers after a trap entry. -/
theorem trapEntry_eq (c : RegCpu) (x : Trap) :
    c.trapEntry x = { c with psr := c.psr &&& Config.trapPsrKeep, sp0 := c.sp0 - 8, mem := c.trapFrame.mem,
                             mod := (c.trapEntry x).mod, sb := (c.trapEntry x).sb, pc := (c.trapEntry x).pc } := by
  obtain ⟨fpsr, fsp0, fsp1, fr, ffp, fint, fcfg, -⟩ := trapFrame_spec c
  unfold RegCpu.trapEntry
  apply RegCpu.ext <;> simp [fpsr, fsp0, fsp1, fr, ffp, fint, fcfg]

@[simp] theorem trapEntry_r (c : RegCpu) (x : Trap) : (c.trapEntry x).r = c.r := by rw [trapEntry_eq]
@[simp] theorem trapEntry_fp (c : RegCpu) (x : Trap) : (c.trapEntry x).fp = c.fp := by rw [trapEntry_eq]
@[simp] theorem trapEntry_sp0 (c : RegCpu) (x : Trap) : (c.trapEntry x).sp0 = c.sp0 - 8 := by rw [trapEntry_eq]
@[simp] theorem trapEntry_sp1 (c : RegCpu) (x : Trap) : (c.trapEntry x).sp1 = c.sp1 := by rw [trapEntry_eq]
@[simp] theorem trapEntry_intbase (c : RegCpu) (x : Trap) : (c.trapEntry x).intbase = c.intbase := by rw [trapEntry_eq]
@[simp] theorem trapEntry_psr (c : RegCpu) (x : Trap) : (c.trapEntry x).psr = c.psr &&& Config.trapPsrKeep := by
  rw [trapEntry_eq]
@[simp] theorem trapEntry_cfg (c : RegCpu) (x : Trap) : (c.trapEntry x).cfg = c.cfg := by rw [trapEntry_eq]
@[simp] theorem trapEntry_mem (c : RegCpu) (x : Trap) : (c.trapEntry x).mem = c.trapFrame.mem := by rw [trapEntry_eq]

theorem trapEntry_read32 (c : RegCpu) (x : Trap) (a : DWord) : (c.trapEntry x).read32 a = c.trapFrame.read32 a := rfl
theorem trapEntry_read16 (c : RegCpu) (x : Trap) (a : DWord) : (c.trapEntry x).read16 a = c.trapFrame.read16 a := rfl
theorem trapEntry_byteAt (c : RegCpu) (x : Trap) (a : DWord) : (c.trapEntry x).byteAt a = c.trapFrame.byteAt a := rfl

theorem trapFrame_mod (c : RegCpu) : c.trapFrame.read16 (c.sp0 - 4) = c.mod := by
  rw [read16_eq_low, (trapFrame_bytes c).1, BitVec.setWidth_append]
  simp

theorem trapFrame_psr (c : RegCpu) : c.trapFrame.read16 (c.sp0 - 2) = c.psr := by
  have htwo : c.sp0 - 4 + 2 = c.sp0 - 2 := by bv_omega
  rw [← htwo, read16_eq_high, (trapFrame_bytes c).1, BitVec.extractLsb'_append_eq_left]

theorem vectorAddr_eq (c : RegCpu) (x : Trap) :
    c.intbase + 4 * BitVec.ofNat 32 (trapVector x) = c.intbase + BitVec.ofNat 32 (4 * trapVector x) := by
  cases x <;> rfl

/-- The four bits that a trap entry clears. -/
theorem psrOnly_trapKeep (p : Word) :
    PsrOnly p (p &&& Config.trapPsrKeep) [(1, false), (8, false), (9, false), (10, false)] := by
  intro k hk
  rw [trapKeep_bit]
  interval_cases k <;> simp [List.lookup]

/-- The vector's descriptor gives the module and the target, read after the pushes (R420). -/
theorem trapEntry_target (c : RegCpu) (x : Trap) :
    let desc := (c.trapEntry x).read32 (c.intbase + BitVec.ofNat 32 (4 * trapVector x))
    (c.trapEntry x).mod.toNat = desc.toNat % 65536 ∧
    (c.trapEntry x).sb = (c.trapEntry x).read32 (BitVec.ofNat 32 (c.trapEntry x).mod.toNat) ∧
    (c.trapEntry x).pc =
      (c.trapEntry x).read32 (BitVec.ofNat 32 (c.trapEntry x).mod.toNat + 8) + BitVec.ofNat 32 (desc.toNat / 65536) := by
  simp only [trapEntry_read32]
  rw [← vectorAddr_eq]
  unfold RegCpu.trapEntry
  exact enterDescriptor_spec ..

/-- Settles O36: the frame is two pushes on `sp[0]`, and the vector is a descriptor. -/
theorem trapEntryState : Obligations.TrapEntryState := by
  intro c x t
  obtain ⟨-, hpc, hbytes⟩ := trapFrame_bytes c
  refine ⟨?_, ?_, ?_, ?_, ?_, ?_, trapEntry_target c x, by decide⟩
  · rw [trapEntry_psr, trapEntry_mem]; exact trapEntry_eq c x
  · rw [trapEntry_psr]; exact psrOnly_trapKeep c.psr
  · rw [trapEntry_read32, hpc]
  · rw [trapEntry_read16, trapFrame_mod]
  · rw [trapEntry_read16, trapFrame_psr]
  · intro a ha
    rw [trapEntry_byteAt, hbytes a ha]

/-- The return (R286): the frame from the selected stack, `sb` from the restored table, then the displacement on the stack
that the restored `S` selects. -/
theorem trapReturn_eq (c : RegCpu) (d : DWord) :
    c.trapReturn d = { c with
      pc := c.read32 c.sp
      psr := c.read16 (c.sp + 6)
      mod := c.read16 (c.sp + 4)
      sb := c.read32 ((c.read16 (c.sp + 4)).setWidth 32)
      sp0 := c.sp0 + (if psrBit c.psr bitS then 0 else 8) + (if psrBit (c.read16 (c.sp + 6)) bitS then 0 else d)
      sp1 := c.sp1 + (if psrBit c.psr bitS then 8 else 0) + (if psrBit (c.read16 (c.sp + 6)) bitS then d else 0) } := by
  have hsix : c.sp + 4 + 2 = c.sp + 6 := by rw [BitVec.add_assoc]; rfl
  have hpsr : (c.read32 (c.sp + 4)).extractLsb' 16 16 = c.read16 (c.sp + 6) := by rw [← hsix, read16_eq_high]
  have hmod : (c.read32 (c.sp + 4)).setWidth 16 = c.read16 (c.sp + 4) := (read16_eq_low ..).symm
  have htop : c.top32 = c.read32 c.sp := rfl
  have hread (v a b : DWord) (p : Word) : (((c.setSp v).goto b).withPsr p).read32 a = c.read32 a := read32_congr (by simp) a
  have hsp : c.sp = if psrBit c.psr bitS then c.sp1 else c.sp0 := rfl
  unfold RegCpu.trapReturn
  dsimp only
  rw [drop32_drop32, drop32_top32, hpsr, hmod, htop]
  generalize c.read16 (c.sp + 6) = p at *
  apply RegCpu.ext
  case sp0 => cases hS : psrBit c.psr bitS <;> cases hS' : psrBit p bitS <;> simp [setSp_sp0, hS, hS', RegCpu.sp]
  case sp1 => cases hS : psrBit c.psr bitS <;> cases hS' : psrBit p bitS <;> simp [setSp_sp1, hS, hS', RegCpu.sp]
  all_goals simp [hread]

theorem exec_rett {s : State} (hu : s.reg.user = false) (d : Disp) :
    exec (.rett d) s = .next { s with reg := s.reg.trapReturn d.value } := by
  show finishReg s (s.reg.privileged _) = _
  simp [RegCpu.privileged, hu]

/-- Settles O39: the return's equation, with `psr` bit 9 as the stack select. -/
theorem trapReturnState : Obligations.TrapReturnState := by
  intro s d hu
  refine ⟨_, exec_rett hu d, ?_, ?_, ?_⟩
  all_goals rw [trapReturn_eq]
  rw [BitVec.ofNat_toNat]

/-- Settles O40: the frame that the entry pushed is the one that the return reads, on `sp[0]` both times. -/
theorem trapReturnUndoesTrapEntry : Obligations.TrapReturnUndoesTrapEntry := by
  intro s x c
  have hS : psrBit c.psr bitS = false := by rw [trapEntry_psr, trapKeep_bit]; simp
  have hU : c.user = false := by unfold RegCpu.user; rw [trapEntry_psr, trapKeep_bit]; simp
  have hsp : c.sp = s.reg.sp0 - 8 := by unfold RegCpu.sp; rw [hS, trapEntry_sp0]; rfl
  have hfour : s.reg.sp0 - 8 + 4 = s.reg.sp0 - 4 := by bv_omega
  have hsix : s.reg.sp0 - 8 + 6 = s.reg.sp0 - 2 := by bv_omega
  have hpc : c.read32 c.sp = s.reg.pc := by rw [hsp, trapEntry_read32, (trapFrame_bytes s.reg).2.1]
  have hmod : c.read16 (c.sp + 4) = s.reg.mod := by rw [hsp, hfour, trapEntry_read16, trapFrame_mod]
  have hold : c.read16 (c.sp + 6) = s.reg.psr := by rw [hsp, hsix, trapEntry_read16, trapFrame_psr]
  have hret : c.trapReturn 0 = { s.reg with mem := c.mem, sb := c.read32 (BitVec.ofNat 32 s.reg.mod.toNat) } := by
    rw [trapReturn_eq, hpc, hmod, hold, hS, BitVec.ofNat_toNat]
    apply RegCpu.ext <;> simp [c]
  clear_value c
  have hexec : exec (.rett (.d1 0)) { s with reg := c } = .next { s with reg := c.trapReturn 0 } :=
    exec_rett (s := { s with reg := c }) hU (.d1 0)
  rw [hexec, hret]

/-! ## Branches and the instructions without operands -/

theorem branch_eq (k : Cond) (d : Disp) (s : State) :
    branch k d s = .next { s with reg := { s.reg with
      pc := if condTrue k s.reg.psr then s.reg.pc + d.value else s.reg.pc + BitVec.ofNat 32 (1 + d.len) } } := by
  unfold branch
  split <;> rfl

/-- Settles O30: one equation for all sixteen; `LO` and `LT` negate a disjunction. -/
theorem conditionalBranches : Obligations.ConditionalBranches := by
  intro s d C L F Z N goes
  have branches (k : Cond) : branch k d s = goes (condTrue k s.reg.psr) := branch_eq k d s
  have hlo : condTrue .lo s.reg.psr = !(L || Z) := (Bool.not_or ..).symm
  have hlt : condTrue .lt s.reg.psr = !(N || Z) := (Bool.not_or ..).symm
  exact ⟨branches .eq, branches .ne, branches .cs, branches .cc, branches .hi, branches .ls, branches .gt, branches .le,
    branches .fs, branches .fc, hlo ▸ branches .lo, branches .hs, hlt ▸ branches .lt, branches .ge, branches .always,
    branches .never⟩

/-- Settles O37: the equations of format 1; a trap's frame has `pc` on top. -/
theorem nopWaitFlagSvcBpt : Obligations.NopWaitFlagSvcBpt := by
  intro s
  refine ⟨rfl, rfl, fun hF => ?_, fun hF => ?_, rfl, rfl, fun x => ?_⟩
  · show finishReg s (if psrBit s.reg.psr 5 then _ else _) = _
    rw [if_pos hF]; rfl
  · show finishReg s (if psrBit s.reg.psr 5 then _ else _) = _
    rw [hF]; rfl
  · rw [trapEntry_sp0, trapEntry_read32, (trapFrame_bytes s.reg).2.1]

end Sys2Proof.Proofs
end

section
/-!
Operands that fault, privileged operations, and the control instructions with one operand (R321 to R327, R424 to R426).
-/
namespace Sys2Proof.Proofs
open Sys2Proof Sys2Proof.Machine Sys2Proof.Laws

variable {s : State} {i : Size} {g : Gen} {o : Opnd}

/-! ## The two traps -/

theorem finishReg_undefined (s : State) : finishReg s undefined = .next { s with reg := s.reg.trapEntry .und } := rfl

theorem privileged_user {α : Type} {c : RegCpu} (h : c.user = true) (body : Except Abort α) :
    c.privileged body = .error (.trap .ill) := by
  unfold RegCpu.privileged; rw [h]; rfl

theorem privileged_supervisor {α : Type} {c : RegCpu} (h : c.user = false) (body : Except Abort α) :
    c.privileged body = body := by
  unfold RegCpu.privileged; rw [h]; rfl

/-! ## Processor registers -/

/-- `LPR` with its operand resolved: the check of the code, then the write (R318). -/
theorem exec_lpr (hi : i ≠ .undef) (ho : s.reg.resolve g = .ok o) (code : BitVec 4) :
    exec (.lpr code i g) s = finishReg s (s.reg.procCheck code >>= fun p =>
      .ok (((s.reg.afterSource i o).procWrite p i (s.reg.srcValue i o)).advance (2 + g.len))) := by
  show finishReg s (guarded (sized i) (s.reg.resolve g >>= _)) = _
  rw [sized_ne hi, guarded_true, ho]
  rfl

/-- `SPR` with its operand resolved: the check of the code, then the class of the operand (R313, R424). -/
theorem exec_spr (hi : i ≠ .undef) (ho : s.reg.resolve g = .ok o) (code : BitVec 4) :
    exec (.spr code i g) s = finishReg s (s.reg.procCheck code >>= fun p => asDest o >>= fun d =>
      .ok ((s.reg.destWrite i d (lowBits i (s.reg.procRead p))).advance (2 + g.len))) := by
  show finishReg s (guarded (sized i) (s.reg.resolve g >>= _)) = _
  rw [sized_ne hi, guarded_true, ho]
  rfl

theorem procCheck_user {c : RegCpu} {code : BitVec 4} {p : ProcReg} (hu : c.user = true) (hp : procReg code = some p)
    (hpriv : procPrivileged p = true) : c.procCheck code = .error (.trap .ill) := by
  simp [RegCpu.procCheck, hp, hpriv, hu]

theorem procCheck_ok {c : RegCpu} {code : BitVec 4} {p : ProcReg} (hp : procReg code = some p)
    (h : procPrivileged p = false ∨ c.user = false) : c.procCheck code = .ok p := by
  unfold RegCpu.procCheck
  rcases h with h | h <;> simp [hp, h]

theorem procCheck_unassigned {c : RegCpu} {code : BitVec 4} (hp : procReg code = none) : c.procCheck code = undefined := by
  unfold RegCpu.procCheck; rw [hp]

/-! ## `BICPSR` and `BISPSR` -/

/-- The word form with its operand resolved (R322, R324). -/
theorem psrUpdate_word (ho : s.reg.resolve g = .ok o) (f : Word → Word → Word) :
    psrUpdate .w g f s = finishReg s (s.reg.privileged (.ok (((s.reg.afterSource .w o).withPsr
      (f s.reg.psr ((s.reg.srcValue .w o).setWidth 16))).advance (2 + g.len)))) := by
  show finishReg s (s.reg.resolve g >>= _) = _
  rw [ho]; rfl

/-- The byte form with its operand resolved. -/
theorem psrUpdate_byte (ho : s.reg.resolve g = .ok o) (f : Word → Word → Word) :
    psrUpdate .b g f s = .next { s with reg := ((s.reg.afterSource .b o).withPsr
      (setPsrLow s.reg.psr ((f s.reg.psr ((s.reg.srcValue .b o).setWidth 16)).setWidth 8))).advance (2 + g.len) } := by
  show finishReg s (s.reg.readOne .b g _) = _
  rw [readOne_ok ho, finishReg_ok, afterSource_psr]
  rfl

theorem exec_bicpsr (s : State) (n : Size) (g : Gen) : exec (.bicpsr n g) s = psrUpdate n g (fun p v => p &&& ~~~v) s := rfl

theorem exec_bispsr (s : State) (n : Size) (g : Gen) : exec (.bispsr n g) s = psrUpdate n g (fun p v => p ||| v) s := rfl

theorem exec_setcfg (hi : i ≠ .undef) (short : BitVec 4) :
    exec (.setcfg short i) s = finishReg s (s.reg.privileged (.ok ({ s.reg with cfg := short }.advance 3))) := by
  show finishReg s (guarded (sized i) _) = _
  rw [sized_ne hi, guarded_true]

/-- Settles O41: each privileged operation reaches its check once the operand resolves. -/
theorem privilegedOperationsTrapInUserMode : Obligations.PrivilegedOperationsTrapInUserMode := by
  intro s g o i short d hu ho hi
  have lpr (code : BitVec 4) (p : ProcReg) (hp : procReg code = some p) (hpriv : procPrivileged p = true) :
      Traps (.lpr code i g) s .ill := by
    unfold Traps; rw [exec_lpr hi ho, procCheck_user hu hp hpriv]; rfl
  have spr (code : BitVec 4) (p : ProcReg) (hp : procReg code = some p) (hpriv : procPrivileged p = true) :
      Traps (.spr code i g) s .ill := by
    unfold Traps; rw [exec_spr hi ho, procCheck_user hu hp hpriv]; rfl
  have word (f : Word → Word → Word) : psrUpdate .w g f s = .next { s with reg := s.reg.trapEntry .ill } := by
    rw [psrUpdate_word ho, privileged_user hu]; rfl
  refine ⟨lpr 13 .psr rfl rfl, lpr 14 .intbase rfl rfl, spr 13 .psr rfl rfl, spr 14 .intbase rfl rfl,
    word fun p v => p &&& ~~~v, word fun p v => p ||| v, ?_, ?_⟩
  · show finishReg s (s.reg.privileged _) = _
    rw [privileged_user hu]; rfl
  · unfold Traps
    rw [exec_setcfg hi, privileged_user hu]; rfl

/-- Settles O56: the new `psr` bit by bit. -/
theorem statusUpdatesComplete : Obligations.StatusUpdatesComplete := by
  intro s g o i short ho Sets vb vw
  have low (f : Word → Word → Word) (k : Nat) :
      psrBit (setPsrLow s.reg.psr ((f s.reg.psr (vb.setWidth 16)).setWidth 8)) k =
        if k < 8 then psrBit (f s.reg.psr (vb.setWidth 16)) k else psrBit s.reg.psr k := by
    rw [psrBit_setPsrLow]
    split
    · next hk => rw [BitVec.getLsbD_setWidth, decide_eq_true hk, Bool.true_and]; rfl
    · rfl
  have byte (ins : Instr) (f : Word → Word → Word) (b : Nat → Bool) (hins : exec ins s = psrUpdate .b g f s)
      (hb : ∀ k < 16, b k = if k < 8 then psrBit (f s.reg.psr (vb.setWidth 16)) k else psrBit s.reg.psr k) :
      Sets .b ins b := by
    refine ⟨_, hins.trans ((psrUpdate_byte ho f).trans ?_), fun k hk => (low f k).trans (hb k hk).symm⟩
    rw [← afterSource_pc s.reg .b o]; rfl
  have word (ins : Instr) (f : Word → Word → Word) (b : Nat → Bool) (hins : exec ins s = psrUpdate .w g f s)
      (hu : s.reg.user = false) (hb : ∀ k < 16, b k = psrBit (f s.reg.psr (vw.setWidth 16)) k) : Sets .w ins b := by
    refine ⟨_, ?_, fun k hk => (hb k hk).symm⟩
    rw [hins, psrUpdate_word ho, privileged_supervisor hu, finishReg_ok, ← afterSource_pc s.reg .w o]; rfl
  refine ⟨byte _ _ _ (exec_bicpsr ..) fun k hk => ?_, byte _ _ _ (exec_bispsr ..) fun k hk => ?_, fun hu =>
    ⟨word _ _ _ (exec_bicpsr ..) hu fun k hk => ?_, word _ _ _ (exec_bispsr ..) hu fun k hk => ?_, fun hi => ?_⟩⟩
  · by_cases h : k < 8 <;> simp [psrBit, h, hk]
  · by_cases h : k < 8 <;> simp [psrBit, h, hk]
  · simp [psrBit, hk]
  · simp [psrBit, hk]
  · rw [exec_setcfg hi, privileged_supervisor hu]; rfl

/-! ## Jumps and the adjustment of `SP` -/

/-- The address class with its operand resolved. -/
theorem addrOne_eq (hi : i ≠ .undef) (ho : s.reg.resolve g = .ok o) (k : DWord → RegCpu) :
    guarded (sized i) (s.reg.addrOne g k) = s.reg.addrOf o >>= fun ea => .ok (k ea) := by
  rw [sized_ne hi, guarded_true]
  show s.reg.resolve g >>= _ = _
  rw [ho]; rfl

theorem exec_jump (hi : i ≠ .undef) (ho : s.reg.resolve g = .ok o) :
    exec (.jump i g) s = finishReg s (s.reg.addrOf o >>= fun ea => .ok (s.reg.goto ea)) :=
  congrArg (finishReg s) (addrOne_eq hi ho _)

theorem exec_jsr (hi : i ≠ .undef) (ho : s.reg.resolve g = .ok o) :
    exec (.jsr i g) s = finishReg s (s.reg.addrOf o >>= fun ea =>
      .ok ((s.reg.push32 (s.reg.pc + BitVec.ofNat 32 (2 + g.len))).goto ea)) :=
  congrArg (finishReg s) (addrOne_eq hi ho _)

theorem exec_caseI (hi : i ≠ .undef) (ho : s.reg.resolve g = .ok o) :
    exec (.caseI i g) s = .next { s with
      reg := (s.reg.afterSource i o).goto (s.reg.pc + BitVec.ofInt 32 (signedOf i (s.reg.srcValue i o))) } := by
  show finishReg s (guarded (sized i) (s.reg.readOne i g _)) = _
  rw [sized_ne hi, guarded_true, readOne_ok ho, finishReg_ok, afterSource_pc]

theorem exec_adjsp (hi : i ≠ .undef) (ho : s.reg.resolve g = .ok o) :
    exec (.adjsp i g) s = .next { s with reg := ((s.reg.afterSource i o).setSp
      ((s.reg.afterSource i o).sp - BitVec.ofInt 32 (signedOf i (s.reg.srcValue i o)))).advance (2 + g.len) } := by
  show finishReg s (guarded (sized i) (s.reg.readOne i g _)) = _
  rw [sized_ne hi, guarded_true, readOne_ok ho, finishReg_ok]
  rfl

/-- Settles O57: the shapes with a resolved operand; `JSR` is a push and a jump. -/
theorem jumpsAndAdjustComplete : Obligations.JumpsAndAdjustComplete := by
  intro s i g o hi ho
  refine ⟨fun ea hea => ⟨?_, (s.reg.push32 (s.reg.pc + BitVec.ofNat 32 (2 + g.len))).goto ea, ?_, ?_, ?_, ?_, ?_, ?_⟩,
    fun k v hkv => ?_, exec_caseI hi ho, _, exec_adjsp hi ho, ?_, ?_, ?_⟩
  · rw [exec_jump hi ho, hea]; rfl
  · rw [exec_jsr hi ho, hea]; rfl
  · rw [push32_eq]; rfl
  · rw [goto_sp, push32_sp]; rfl
  · rw [goto_otherSp, push32_otherSp]
  · rw [goto_read32, goto_sp, read32_push32]
  · intro x hx
    rw [goto_sp] at hx
    rw [goto_byteAt, byteAt_push32_outside _ _ _ hx]
  · unfold Traps
    rw [exec_jump hi ho]
    rcases hkv with rfl | rfl <;> rfl
  · rw [setSp_eq, ← afterSource_pc s.reg i o]; rfl
  · rw [advance_sp, setSp_sp]
  · exact setSp_otherSp ..

/-! ## Undefined instructions -/

/-- An unassigned code has no register (R316). -/
theorem procReg_unassigned {code : BitVec 4} (h : code ∈ [1, 2, 3, 4, 5, 6, 7, 11, 12]) : procReg code = none := by
  revert h
  decide +revert

theorem stringDefined_eq_false {x : BitVec 4} {i : Size} (h : x &&& 0xC = 0x8 ∨ i = .undef ∨ (x &&& 0x1 = 0x1 ∧ i ≠ .b)) :
    stringDefined x i = false := by
  revert h
  cases i <;> decide +revert

/-- Settles O38: the size and the options are checked before any operand, an unassigned code after it. -/
theorem undefinedInstructionsTrap : Obligations.UndefinedInstructionsTrap := by
  intro s u gen op i x g g1 g2 c d
  refine ⟨⟨rfl, rfl, rfl, rfl⟩, fun h => ?_, ⟨rfl, fun mk hmk => ?_, fun mk hmk => ?_⟩, fun h => ?_, fun h => ?_, fun h => ?_,
    fun o hx hi ho => ?_⟩
  · have hstop : ∀ body, finishReg s (guarded (stringDefined x i) body) = .next { s with reg := s.reg.trapEntry .und } := by
      intro body; rw [stringDefined_eq_false h]; rfl
    exact ⟨hstop _, hstop _, hstop _⟩
  · fin_cases hmk <;> rfl
  · fin_cases hmk <;> rfl
  · cases i
    case d => exact absurd rfl h
    all_goals rfl
  · cases i
    case b => exact absurd rfl h
    all_goals exact ⟨rfl, rfl⟩
  · rcases h with rfl | rfl <;> exact ⟨rfl, rfl, rfl, rfl⟩
  · unfold Traps
    rw [exec_lpr hi ho, exec_spr hi ho, procCheck_unassigned (procReg_unassigned hx)]
    exact ⟨rfl, rfl⟩

/-! ## Operands that fault -/

/-- The instruction resolves its two operands in order, before anything else (R424 step 2). -/
def ResolvesBoth (s : State) (mk : Gen → Gen → Instr) (k : Gen → Gen → Opnd → Opnd → Except Abort RegCpu) : Prop :=
  ∀ g1 g2, exec (mk g1 g2) s = finishReg s (s.reg.resolve g1 >>= fun o1 => s.reg.resolve g2 >>= fun o2 => k g1 g2 o1 o2)

/-- The instruction resolves its one operand before anything else. -/
def ResolvesOne (s : State) (mk : Gen → Instr) (k : Gen → Opnd → Except Abort RegCpu) : Prop :=
  ∀ g, exec (mk g) s = finishReg s (s.reg.resolve g >>= k g)

theorem faults_of_resolvesBoth {mk : Gen → Gen → Instr} {k : Gen → Gen → Opnd → Opnd → Except Abort RegCpu}
    (h : ResolvesBoth s mk k) (g : Gen) (o : Opnd) (j : Fin 4) :
    Traps (mk .reserved g) s .und ∧ exec (mk (.scaled j) g) s = .fault (.notImplementedMode j) ∧
    (s.reg.resolve g = .ok o → Traps (mk g .reserved) s .und ∧ exec (mk g (.scaled j)) s = .fault (.notImplementedMode j)) := by
  refine ⟨(h _ _).trans rfl, (h _ _).trans rfl, fun ho => ⟨(h _ _).trans ?_, (h _ _).trans ?_⟩⟩
  · rw [ho]; rfl
  · rw [ho]; rfl

theorem imm_dest_traps {mk : Gen → Gen → Instr} {k : Gen → Gen → Opnd → Opnd → Except Abort RegCpu}
    (h : ResolvesBoth s mk k) (hk : ∀ g1 g2 o1 v, k g1 g2 o1 (.imm v) = undefined) (ho : s.reg.resolve g = .ok o) (v : Imm) :
    Traps (mk g (.imm v)) s .und := by
  refine (h g (.imm v)).trans ?_
  rw [ho]
  show finishReg s (k g (.imm v) o (.imm v.value)) = _
  rw [hk, finishReg_undefined]

theorem faults_of_resolvesOne {mk : Gen → Instr} {k : Gen → Opnd → Except Abort RegCpu} (h : ResolvesOne s mk k) (j : Fin 4) :
    Traps (mk .reserved) s .und ∧ exec (mk (.scaled j)) s = .fault (.notImplementedMode j) :=
  ⟨(h _).trans rfl, (h _).trans rfl⟩

/-- Every instruction with a second operand that is written or holds a bit resolves both, and refuses an immediate there. -/
theorem resolvesBoth_twoOperand (hi : i ≠ .undef) (s : State) {mk : Gen → Gen → Instr} (h : mk ∈ twoOperand i ++ fixedSize) :
    ∃ k, ResolvesBoth s mk k ∧ ∀ g1 g2 o1 v, k g1 g2 o1 (.imm v) = undefined := by
  cases i
  case undef => exact absurd rfl hi
  all_goals fin_cases h <;> exact ⟨_, fun _ _ => rfl, fun _ _ o1 _ => by cases o1 <;> rfl⟩

theorem resolvesBoth_cmp (hi : i ≠ .undef) (s : State) : ∃ k, ResolvesBoth s (.cmp i) k := by
  cases i
  case undef => exact absurd rfl hi
  all_goals exact ⟨_, fun _ _ => rfl⟩

theorem resolvesOne_oneOperand (hi : i ≠ .undef) (s : State) {x : BitVec 4} {c : Cond} {d : Disp} {mk : Gen → Instr}
    (h : mk ∈ oneOperand x c d i ++ psrOperand) : ∃ k, ResolvesOne s mk k := by
  cases i
  case undef => exact absurd rfl hi
  all_goals fin_cases h <;> exact ⟨_, fun _ => rfl⟩

/-- The two privileged registers have the codes 13 and 14 (R316). -/
theorem procPrivileged_eq_false {x : BitVec 4} {p : ProcReg} (hx : procReg x = some p) (hne : x ≠ 13 ∧ x ≠ 14) :
    procPrivileged p = false := by
  revert hx hne
  cases p <;> decide +revert

/-- An immediate cannot take what `SPR` stores; a privileged code is refused before that (R424). -/
theorem spr_imm_traps (hi : i ≠ .undef) (x : BitVec 4) (v : Imm) (h : s.reg.user = false ∨ (x ≠ 13 ∧ x ≠ 14)) :
    Traps (.spr x i (.imm v)) s .und := by
  unfold Traps
  rw [exec_spr hi (o := .imm v.value) rfl]
  cases hx : procReg x with
  | none => rw [procCheck_unassigned hx]; rfl
  | some p =>
    have hpriv : procPrivileged p = false ∨ s.reg.user = false := by
      exact h.symm.imp_left (procPrivileged_eq_false hx)
    rw [procCheck_ok hx hpriv]; rfl

/-- Settles O60: operands resolve in order before anything is done with them, and the class of an operand is checked then. -/
theorem operandFaults : Obligations.OperandFaults := by
  intro s i g o j v r x c d hi
  refine ⟨fun mk hmk => ?_, fun mk hmk ho => ?_, fun mk hmk => ?_, ?_, fun mk hmk => ?_, fun ho => ?_⟩
  · rcases List.mem_cons.mp hmk with rfl | hmk
    · obtain ⟨k, hk⟩ := resolvesBoth_cmp hi s
      exact faults_of_resolvesBoth hk g o j
    · obtain ⟨k, hk, -⟩ := resolvesBoth_twoOperand hi s hmk
      exact faults_of_resolvesBoth hk g o j
  · obtain ⟨k, hk, himm⟩ := resolvesBoth_twoOperand hi s hmk
    exact imm_dest_traps hk himm ho v
  · obtain ⟨k, hk⟩ := resolvesOne_oneOperand hi s hmk
    exact faults_of_resolvesOne hk j
  · refine ⟨?_, ?_, ?_, ?_, spr_imm_traps hi x v⟩
    all_goals
      cases i
      case undef => exact absurd rfl hi
      all_goals rfl
  · cases i
    case undef => exact absurd rfl hi
    all_goals fin_cases hmk <;> exact ⟨rfl, rfl⟩
  · constructor
    all_goals
      show finishReg s (s.reg.resolve g >>= _) = _
      rw [ho]; rfl

/-- Settles O53: the test of the divisor comes before the dividend is read. -/
theorem divisionByZeroTraps : Obligations.DivisionByZeroTraps := by
  intro s i g1 g2 o1 o2 d hi _ h1 h2 hd hzero
  have hv : signedOf i (s.reg.srcValue i o1) = 0 := by rw [hzero]; cases i <;> rfl
  have traps (f : Int → Int → Int) :
      finishReg s (guarded (sized i) (s.reg.divTwo i g1 g2 f)) = .next { s with reg := s.reg.trapEntry .dvz } := by
    rw [sized_ne hi, guarded_true, divTwo_zero h1 h2 hd hv]; rfl
  exact ⟨traps quoOf, traps remOf, traps modOf, traps divOf⟩

end Sys2Proof.Proofs
end

section
/-!
RegisterCPU arithmetic (spec/46 to spec/49). First the numbers: what an operand of a size stands for, and when a 32-bit pattern
has a given value modulo its size. Then one rule per shape of instruction, from the value and the flags it computes to the
statements' `Updates` and `Writes`; each instruction is then a fact about numbers.
-/
namespace Sys2Proof.Proofs
open Sys2Proof Sys2Proof.Machine Sys2Proof.Laws

/-! ## Sizes and signed values -/

theorem two_pow_bits_dvd (n : Size) : (2 ^ n.bits : Int) ∣ 2 ^ 32 := by cases n <;> decide

/-- A pattern that is `v` modulo 2^32 is, cut to a size, `v` modulo that size. -/
theorem toNat_lowBits_of_emod {n : Size} {x : DWord} {v : Int} (h : (x.toNat : Int) % 2 ^ 32 = v % 2 ^ 32) :
    ((lowBits n x).toNat : Int) = v % 2 ^ n.bits := by
  rw [toNat_lowBits]
  push_cast
  rw [← Int.emod_emod_of_dvd _ (two_pow_bits_dvd n), h, Int.emod_emod_of_dvd _ (two_pow_bits_dvd n)]

theorem toNat_narrow (n : Size) (v : Int) : ((narrow n v).toNat : Int) = v % 2 ^ n.bits := by
  refine toNat_lowBits_of_emod ?_
  rw [BitVec.toNat_ofInt]
  have : (0 : Int) ≤ v % ((2 ^ 32 : Nat) : Int) := Int.emod_nonneg _ (by decide)
  omega

theorem signedOf_emod (n : Size) (v : DWord) : signedOf n v % 2 ^ n.bits = (v.toNat : Int) % 2 ^ n.bits := by
  cases n <;> simp only [signedOf, BitVec.toInt_eq_toNat_cond, BitVec.toNat_setWidth, Size.bits] <;> omega

theorem signedOf_bounds (n : Size) (v : DWord) : -2 ^ (n.bits - 1) ≤ signedOf n v ∧ signedOf n v < 2 ^ (n.bits - 1) := by
  have := v.isLt
  cases n <;> simp only [signedOf, BitVec.toInt_eq_toNat_cond, BitVec.toNat_setWidth, Size.bits] <;> omega

/-- Patterns that fit the size have the same signed value only when they are equal. -/
theorem signedOf_inj {n : Size} {a b : DWord} (ha : a.toNat < 2 ^ n.bits) (hb : b.toNat < 2 ^ n.bits) :
    signedOf n a = signedOf n b ↔ a = b := by
  refine ⟨fun h => BitVec.eq_of_toNat_eq ?_, congrArg _⟩
  have hmod := signedOf_emod n a
  rw [h, signedOf_emod] at hmod
  have hnat : b.toNat % 2 ^ n.bits = a.toNat % 2 ^ n.bits := by exact_mod_cast hmod
  rw [Nat.mod_eq_of_lt ha, Nat.mod_eq_of_lt hb] at hnat
  exact hnat.symm

/-- A sum that fits one bit more carries when that bit is set. -/
theorem testBit_carry {m x : Nat} (h : x < 2 ^ (m + 1)) : x.testBit m = decide (2 ^ m ≤ x) := by
  rw [Nat.testBit_eq_decide_div_mod_eq]
  congr 1
  rw [pow_succ] at h
  by_cases hx : 2 ^ m ≤ x
  · have : x / 2 ^ m = 1 := Nat.div_eq_of_lt_le (by omega) (by omega)
    simp [this, hx]
  · have : x / 2 ^ m = 0 := Nat.div_eq_of_lt (by omega)
    simp [this, hx]

/-- The value of a source fits, in whatever state it is read, once a well-formed immediate is known to. -/
theorem srcValue_lt_of_wf {c : RegCpu} {n : Size} {g : Gen} {o : Opnd} (hg : wfGen n g = true) (h : c.resolve g = .ok o)
    (t : RegCpu) : (t.srcValue n o).toNat < 2 ^ n.bits := by
  cases o with
  | imm v => exact srcValue_lt (c := c) (o := .imm v) hg h
  | reg k => exact lowBits_lt _ _
  | mem ea => exact memRead_lt _ _ _
  | tos => exact memRead_lt _ _ _

theorem wfGens_iff {n1 n2 : Size} {g1 g2 : Gen} : wfGens n1 n2 g1 g2 = true ↔ wfGen n1 g1 = true ∧ wfGen n2 g2 = true := by
  simp [wfGens]

/-! ## `psr` -/

theorem psrOnly_nil (p : Word) : PsrOnly p p [] := fun _ _ => rfl

theorem psrOnly_setCF (p : Word) (c f : Bool) : PsrOnly p (setCF p c f) [(0, c), (5, f)] := by
  intro k hk
  rw [psrBit_setCF]
  interval_cases k <;> rfl

theorem psrOnly_setF (p : Word) (f : Bool) : PsrOnly p (setPsrBit p bitF f) [(5, f)] := by
  intro k hk
  rw [psrBit_setPsrBit _ _ _ _ (by decide)]
  interval_cases k <;> rfl

theorem psrOnly_setZNL (p : Word) (z n l : Bool) : PsrOnly p (setZNL p z n l) [(6, z), (7, n), (2, l)] := by
  intro k hk
  rw [psrBit_setZNL]
  interval_cases k <;> rfl

/-! ## From a shape to its statement -/

theorem finishReg_sized {s : State} {i : Size} (hi : i ≠ .undef) (body : Except Abort RegCpu) :
    finishReg s (guarded (sized i) body) = finishReg s body := by rw [sized_ne hi, guarded_true]

section
variable {s : State} {n n1 n2 : Size} {g g1 g2 : Gen} {o o1 o2 : Opnd} {d : Dest} {len : Nat} {ins : Instr} {val : Int}
  {flags : List (Nat × Bool)}

/-- Source `read`, destination `rmw`. -/
theorem updates_rmwTwo {f : Word → DWord → DWord → DWord × Word}
    (he : exec ins s = finishReg s (s.reg.rmwTwo n1 n2 g1 g2 len f))
    (h1 : s.reg.resolve g1 = .ok o1) (h2 : s.reg.resolve g2 = .ok o2) (hd : asDest o2 = .ok d)
    (hv : ((lowBits n2 (f s.reg.psr (s.reg.srcValue n1 o1) ((s.reg.afterSource n1 o1).destValue n2 d)).1).toNat : Int) =
      val % 2 ^ n2.bits)
    (hp : PsrOnly s.reg.psr (f s.reg.psr (s.reg.srcValue n1 o1) ((s.reg.afterSource n1 o1).destValue n2 d)).2 flags)
    (hS : flags.lookup bitS = none) : Updates ins s (s.reg.afterSource n1 o1) n2 d len val flags :=
  updates_of _ _ (afterSource_eq ..) (by rw [he, rmwTwo_ok h1 h2 hd, finishReg_ok]) hv hp hS

/-- One operand, `rmw`. -/
theorem updates_rmwOne {f : Word → DWord → DWord × Word} (he : exec ins s = finishReg s (s.reg.rmwOne n g len f))
    (ho : s.reg.resolve g = .ok o) (hd : asDest o = .ok d)
    (hv : ((lowBits n (f s.reg.psr (s.reg.destValue n d)).1).toNat : Int) = val % 2 ^ n.bits)
    (hp : PsrOnly s.reg.psr (f s.reg.psr (s.reg.destValue n d)).2 flags) (hS : flags.lookup bitS = none) :
    Updates ins s s.reg n d len val flags :=
  updates_of _ _ rfl (by rw [he, rmwOne_ok ho hd, finishReg_ok]) hv hp hS

/-- Source `read`, destination `write`. -/
theorem writes_writeTwo {f : Word → DWord → DWord × Word} (he : exec ins s = finishReg s (s.reg.writeTwo n1 n2 g1 g2 len f))
    (h1 : s.reg.resolve g1 = .ok o1) (h2 : s.reg.resolve g2 = .ok o2) (hd : asDest o2 = .ok d)
    (hv : ((lowBits n2 (f s.reg.psr (s.reg.srcValue n1 o1)).1).toNat : Int) = val % 2 ^ n2.bits)
    (hp : PsrOnly s.reg.psr (f s.reg.psr (s.reg.srcValue n1 o1)).2 flags) (hS : flags.lookup bitS = none) :
    Writes ins s (s.reg.afterSource n1 o1) n2 d len val flags :=
  writes_of _ _ (afterSource_eq ..) (by rw [he, writeTwo_ok h1 h2 hd, finishReg_ok]) hv hp hS

/-- A write of one destination that leaves `psr` alone. -/
theorem writes_dest {r : DWord} (he : exec ins s = .next { s with reg := (s.reg.destWrite n d r).advance len })
    (hv : ((lowBits n r).toNat : Int) = val % 2 ^ n.bits) : Writes ins s s.reg n d len val [] := by
  refine writes_of r s.reg.psr rfl (he.trans ?_) hv (psrOnly_nil _) rfl
  rw [← destWrite_psr s.reg n d r]
  rfl

/-- One operand, `write`. -/
theorem writes_writeOne {r : DWord} (he : exec ins s = finishReg s (s.reg.writeOne n g len r))
    (ho : s.reg.resolve g = .ok o) (hd : asDest o = .ok d) (hv : ((lowBits n r).toNat : Int) = val % 2 ^ n.bits) :
    Writes ins s s.reg n d len val [] :=
  writes_dest (by rw [he, writeOne_ok ho hd, finishReg_ok]) hv

end

/-! ## Addition and subtraction -/

theorem addFlags_val (n : Size) (a b : DWord) (c : Bool) :
    ((addFlags n a b c).val.toNat : Int) = (a.toNat + b.toNat + c.toNat) % 2 ^ n.bits := by
  refine toNat_lowBits_of_emod ?_
  rw [BitVec.toNat_ofNat]
  omega

theorem addFlags_c {n : Size} {a b : DWord} (c : Bool) (ha : a.toNat < 2 ^ n.bits) (hb : b.toNat < 2 ^ n.bits) :
    (addFlags n a b c).c = decide (2 ^ n.bits ≤ a.toNat + b.toNat + c.toNat) :=
  testBit_carry (by have := c.toNat_le; rw [pow_succ]; omega)

theorem subFlags_val (n : Size) (a b : DWord) (c : Bool) :
    ((subFlags n a b c).val.toNat : Int) = (a.toNat - b.toNat - c.toNat) % 2 ^ n.bits := by
  refine toNat_lowBits_of_emod ?_
  have := c.toNat_le
  rw [BitVec.toNat_sub, BitVec.toNat_sub, BitVec.toNat_ofNat]
  omega

/-- The result is already cut to its size. -/
theorem lowBits_addFlags (n : Size) (a b : DWord) (c : Bool) : lowBits n (addFlags n a b c).val = (addFlags n a b c).val :=
  lowBits_lowBits ..

theorem lowBits_subFlags (n : Size) (a b : DWord) (c : Bool) : lowBits n (subFlags n a b c).val = (subFlags n a b c).val :=
  lowBits_lowBits ..

/-- Settles O43: the four are `AddFlags` and `SubFlags` on the old destination and the source. -/
theorem addSubtractComplete : Obligations.AddSubtractComplete := by
  intro s i g1 g2 o1 o2 d hi hwf h1 h2 hd c a b cin out len
  obtain ⟨hg1, -⟩ := wfGens_iff.mp hwf
  have ha : a.toNat < 2 ^ i.bits := srcValue_lt hg1 h1
  have hb : b.toNat < 2 ^ i.bits := destValue_lt ..
  have add (ins : Instr) (carry : Word → Bool)
      (he : exec ins s = finishReg s (guarded (sized i) (s.reg.rmwTwo i i g1 g2 len fun p a b =>
        ((addFlags i b a (carry p)).val, setCF p (addFlags i b a (carry p)).c (addFlags i b a (carry p)).f)))) :
      Updates ins s c i d len (b.toNat + a.toNat + (carry s.reg.psr).toNat)
        [(0, decide (2 ^ i.bits ≤ b.toNat + a.toNat + (carry s.reg.psr).toNat)),
         (5, out (signedOf i b + signedOf i a + (carry s.reg.psr).toNat))] := by
    refine updates_rmwTwo (he.trans (finishReg_sized hi _)) h1 h2 hd ?_ ?_ rfl
    · rw [lowBits_addFlags, addFlags_val]
    · rw [← addFlags_c _ hb ha]; exact psrOnly_setCF _ _ _
  have sub (ins : Instr) (carry : Word → Bool)
      (he : exec ins s = finishReg s (guarded (sized i) (s.reg.rmwTwo i i g1 g2 len fun p a b =>
        ((subFlags i b a (carry p)).val, setCF p (subFlags i b a (carry p)).c (subFlags i b a (carry p)).f)))) :
      Updates ins s c i d len (b.toNat - a.toNat - (carry s.reg.psr).toNat)
        [(0, decide (b.toNat < a.toNat + (carry s.reg.psr).toNat)),
         (5, out (signedOf i b - signedOf i a - (carry s.reg.psr).toNat))] := by
    refine updates_rmwTwo (he.trans (finishReg_sized hi _)) h1 h2 hd ?_ (psrOnly_setCF _ _ _) rfl
    rw [lowBits_subFlags, subFlags_val]
  refine ⟨?_, add _ (fun p => psrBit p bitC) rfl, ?_, sub _ (fun p => psrBit p bitC) rfl⟩
  · simpa using add _ (fun _ => false) rfl
  · simpa using sub _ (fun _ => false) rfl

/-! ## Logic, multiplication, moves -/

theorem lowBits_emod (n : Size) (x : DWord) : ((lowBits n x).toNat : Int) = (x.toNat : Int) % 2 ^ n.bits :=
  toNat_lowBits_of_emod rfl

/-- Settles O44: bit by bit the result is that of the 32-bit containers. -/
theorem logicAndMultiplyComplete : Obligations.LogicAndMultiplyComplete := by
  intro s i g1 g2 o1 o2 d hi _ h1 h2 hd c a b
  have update (ins : Instr) (len : Nat) (f : DWord → DWord → DWord) (val : Int)
      (he : exec ins s = finishReg s (guarded (sized i) (s.reg.rmwTwo i i g1 g2 len fun p a b => (f a b, p))))
      (hv : ((lowBits i (f a b)).toNat : Int) = val % 2 ^ i.bits) : Updates ins s c i d len val [] :=
    updates_rmwTwo (he.trans (finishReg_sized hi _)) h1 h2 hd hv (psrOnly_nil _) rfl
  refine ⟨update _ _ (fun a b => b &&& ~~~a) _ rfl (lowBits_emod ..), update _ _ (fun a b => b ||| a) _ rfl (lowBits_emod ..),
    update _ _ (fun a b => b &&& a) _ rfl (lowBits_emod ..), update _ _ (fun a b => b ^^^ a) _ rfl (lowBits_emod ..),
    update _ _ (fun a b => lowBits i (b * a)) _ rfl ?_⟩
  rw [lowBits_lowBits]
  refine toNat_lowBits_of_emod ?_
  rw [BitVec.toNat_mul]
  push_cast
  exact Int.emod_emod_of_dvd _ (dvd_refl _)

theorem toNat_lowBits_quick (n : Size) (q : BitVec 4) :
    ((lowBits n (quickValue q)).toNat : Int) = q.toInt % 2 ^ n.bits := by
  refine toNat_lowBits_of_emod ?_
  have hq : q.toInt = (quickValue q).toInt := (BitVec.toInt_signExtend_of_le (by decide)).symm
  rw [hq, BitVec.toInt_eq_toNat_cond]
  omega

/-- `ADDR` with its operands resolved: the address is taken before the write (R343). -/
theorem exec_addr {s : State} {g1 g2 : Gen} {o1 o2 : Opnd} {d : Dest} {ea : DWord} (h1 : s.reg.resolve g1 = .ok o1)
    (h2 : s.reg.resolve g2 = .ok o2) (hea : s.reg.addrOf o1 = .ok ea) (hd : asDest o2 = .ok d) :
    exec (.addr .d g1 g2) s = .next { s with reg := (s.reg.destWrite .d d ea).advance (2 + g1.len + g2.len) } := by
  show finishReg s (s.reg.resolve g1 >>= _) = _
  rw [h1]
  show finishReg s (s.reg.resolve g2 >>= _) = _
  rw [h2]
  show finishReg s (s.reg.addrOf o1 >>= fun ea => asDest o2 >>= _) = _
  rw [hea]
  show finishReg s (asDest o2 >>= _) = _
  rw [hd]
  rfl

/-- Settles O46: one destination written, by the shape's rule. -/
theorem movesComplete : Obligations.MovesComplete := by
  intro s i g1 g2 o1 o2 d q cond ea hi hwf h1 h2 hd
  refine ⟨?_, ?_, ?_, fun hsize hea => ?_⟩
  · exact writes_writeTwo (f := fun p a => (a, p)) (finishReg_sized hi _) h1 h2 hd (lowBits_emod ..) (psrOnly_nil _) rfl
  · refine writes_writeOne (finishReg_sized hi _) h2 hd ?_
    rw [lowBits_lowBits, toNat_lowBits_quick]
  · refine writes_writeOne (finishReg_sized hi _) h2 hd ?_
    rw [lowBits_emod]
    cases condTrue cond s.reg.psr <;> rfl
  · subst hsize
    exact writes_dest (exec_addr h1 h2 hea hd) (lowBits_emod ..)

/-- Settles O47: sign extension keeps the signed value, zero extension the pattern. -/
theorem extendingMovesComplete : Obligations.ExtendingMovesComplete := by
  intro s i g1 g2 o1 o2 d h1 h2 hd
  have extend (ins : Instr) (n1 n2 : Size) (f : DWord → DWord) (val : Int)
      (he : exec ins s = finishReg s (s.reg.writeTwo n1 n2 g1 g2 (3 + g1.len + g2.len) fun p a => (f a, p)))
      (hv : ((lowBits n2 (f (s.reg.srcValue n1 o1))).toNat : Int) = val % 2 ^ n2.bits) :
      Writes ins s (s.reg.afterSource n1 o1) n2 d (3 + g1.len + g2.len) val [] :=
    writes_writeTwo he h1 h2 hd hv (psrOnly_nil _) rfl
  have narrowed (n : Size) (v : Int) : ((lowBits n (narrow n v)).toNat : Int) = v % 2 ^ n.bits := by
    rw [narrow, lowBits_lowBits, ← narrow, toNat_narrow]
  refine ⟨fun _ => ⟨extend _ .b .w (fun a => narrow .w (signedOf .b a)) _ rfl (narrowed ..),
    extend _ .b .w (fun a => a) _ rfl (lowBits_emod ..)⟩, ?_⟩
  rintro (rfl | rfl) _
  · exact ⟨extend _ .b .d (fun a => narrow .d (signedOf .b a)) _ rfl (narrowed ..),
      extend _ .b .d (fun a => a) _ rfl (lowBits_emod ..)⟩
  · exact ⟨extend _ .w .d (fun a => narrow .d (signedOf .w a)) _ rfl (narrowed ..),
      extend _ .w .d (fun a => a) _ rfl (lowBits_emod ..)⟩

/-! ## Compares -/

theorem psrOnly_cmpFlags (n : Size) (a b : DWord) (p : Word) :
    PsrOnly p (cmpFlags n a b p)
      [(6, decide (a = b)), (7, decide (signedOf n b < signedOf n a)), (2, decide (b.toNat < a.toNat))] := by
  unfold cmpFlags
  rw [beq_eq_decide]
  exact psrOnly_setZNL _ _ _ _

theorem exec_cmp {s : State} {i : Size} {g1 g2 : Gen} {o1 o2 : Opnd} (hi : i ≠ .undef) (h1 : s.reg.resolve g1 = .ok o1)
    (h2 : s.reg.resolve g2 = .ok o2) :
    exec (.cmp i g1 g2) s = .next { s with
      reg := (((s.reg.afterSource i o1).afterSource i o2).withPsr (cmpFlags i (s.reg.srcValue i o1)
        ((s.reg.afterSource i o1).srcValue i o2) s.reg.psr)).advance (2 + g1.len + g2.len) } := by
  refine (finishReg_sized hi _).trans ?_
  rw [readTwo_ok h1 h2, finishReg_ok]
  rfl

theorem exec_cmpq {s : State} {i : Size} {g : Gen} {o : Opnd} (hi : i ≠ .undef) (ho : s.reg.resolve g = .ok o) (q : BitVec 4) :
    exec (.cmpq q i g) s = .next { s with
      reg := ((s.reg.afterSource i o).withPsr (cmpFlags i (lowBits i (q.signExtend 32)) (s.reg.srcValue i o)
        s.reg.psr)).advance (2 + g.len) } := by
  refine (finishReg_sized hi _).trans ?_
  rw [readOne_ok ho, finishReg_ok, afterSource_psr]
  rfl

/-- Settles O45: the sources are read, `psr` and `pc` are written. -/
theorem comparesComplete : Obligations.ComparesComplete := by
  intro s i g1 g2 o1 o2 q hi h1 h2 Compares
  refine ⟨⟨_, exec_cmp hi h1 h2, ?_, psrOnly_cmpFlags _ _ _ _⟩, ⟨_, exec_cmpq hi h1 q, ?_, psrOnly_cmpFlags _ _ _ _⟩⟩
  · rw [← afterSource_pc s.reg i o1, ← afterSource_pc (s.reg.afterSource i o1) i o2]; rfl
  · rw [← afterSource_pc s.reg i o1]; rfl

/-- What the flags of a compare say under the conditions' names. -/
theorem condTrue_cmpFlags {n : Size} {a b : DWord} (ha : a.toNat < 2 ^ n.bits) (hb : b.toNat < 2 ^ n.bits) (p : Word) :
    (condTrue .eq (cmpFlags n a b p) = decide (a = b) ∧ condTrue .ne (cmpFlags n a b p) = decide (a ≠ b)) ∧
    (condTrue .hi (cmpFlags n a b p) = decide (b.toNat < a.toNat) ∧ condTrue .ls (cmpFlags n a b p) = decide (a.toNat ≤ b.toNat) ∧
      condTrue .lo (cmpFlags n a b p) = decide (a.toNat < b.toNat) ∧
      condTrue .hs (cmpFlags n a b p) = decide (b.toNat ≤ a.toNat)) ∧
    (condTrue .gt (cmpFlags n a b p) = decide (signedOf n b < signedOf n a) ∧
      condTrue .le (cmpFlags n a b p) = decide (signedOf n a ≤ signedOf n b) ∧
      condTrue .lt (cmpFlags n a b p) = decide (signedOf n a < signedOf n b) ∧
      condTrue .ge (cmpFlags n a b p) = decide (signedOf n b ≤ signedOf n a)) := by
  have hZ : psrBit (cmpFlags n a b p) bitZ = decide (a = b) := psrOnly_cmpFlags n a b p 6 (by decide)
  have hN : psrBit (cmpFlags n a b p) bitN = decide (signedOf n b < signedOf n a) := psrOnly_cmpFlags n a b p 7 (by decide)
  have hL : psrBit (cmpFlags n a b p) bitL = decide (b.toNat < a.toNat) := psrOnly_cmpFlags n a b p 2 (by decide)
  have hnat : a = b ↔ a.toNat = b.toNat := BitVec.toNat_inj.symm
  have hint : a = b ↔ signedOf n a = signedOf n b := (signedOf_inj ha hb).symm
  simp only [condTrue, hZ, hN, hL, ← decide_not, ← Bool.decide_and, ← Bool.decide_or, decide_eq_decide]
  refine ⟨by tauto, ⟨by tauto, by omega, ?_, ?_⟩, by tauto, by omega, ?_, ?_⟩
  · rw [hnat]; omega
  · rw [hnat]; omega
  · rw [hint]; omega
  · rw [hint]; omega

/-- Settles O31: both compared values fit the size, so the flags say what the conditions' names say. -/
theorem conditionsAfterCompare : Obligations.ConditionsAfterCompare := by
  intro s i g1 g2 o1 o2 q hi hwf h1 h2 Reads
  obtain ⟨hg1, hg2⟩ := wfGens_iff.mp hwf
  exact ⟨⟨_, exec_cmp hi h1 h2, condTrue_cmpFlags (srcValue_lt hg1 h1) (srcValue_lt_of_wf hg2 h2 _) _⟩,
    ⟨_, exec_cmpq hi h1 q, condTrue_cmpFlags (lowBits_lt ..) (srcValue_lt hg1 h1) _⟩⟩

/-! ## Unary operations -/

theorem signedOf_zero (n : Size) : signedOf n 0 = 0 := by cases n <;> rfl

/-- Negation borrows unless the value is 0. -/
theorem subFlags_zero_c (n : Size) (a : DWord) : (subFlags n 0 a false).c = decide (a ≠ 0) := by
  have hpos : 0 < a.toNat ↔ a ≠ 0 := by
    rw [Nat.pos_iff_ne_zero, ne_eq, ne_eq, ← BitVec.toNat_inj]; rfl
  exact decide_eq_decide.mpr hpos

/-- Negation overflows for the most negative value only. -/
theorem subFlags_zero_f (n : Size) (a : DWord) :
    (subFlags n 0 a false).f = decide (signedOf n a = -2 ^ (n.bits - 1)) := by
  obtain ⟨hlo, hhi⟩ := signedOf_bounds n a
  show outOfRange n (signedOf n 0 - signedOf n a - 0) = _
  rw [signedOf_zero, outOfRange, ← Bool.decide_or, decide_eq_decide]
  omega

theorem neg_emod_signedOf (n : Size) (a : DWord) : (-(a.toNat : Int)) % 2 ^ n.bits = -signedOf n a % 2 ^ n.bits :=
  (Int.ModEq.neg (signedOf_emod n a)).symm

/-- Settles O48: `NEG` and `ABS` are a subtraction from 0, whose overflow is the most negative source. -/
theorem unaryOperationsComplete : Obligations.UnaryOperationsComplete := by
  intro s i g1 g2 o1 o2 d hi hwf h1 h2 hd c a len lowest
  have hneg : ((lowBits i (subFlags i 0 a false).val).toNat : Int) = (-a.toNat : Int) % 2 ^ i.bits := by
    rw [lowBits_subFlags, subFlags_val]; simp
  have write (ins : Instr) (f : Word → DWord → DWord × Word) (val : Int) (flags : List (Nat × Bool))
      (he : exec ins s = finishReg s (guarded (sized i) (s.reg.writeTwo i i g1 g2 len f)))
      (hv : ((lowBits i (f s.reg.psr a).1).toNat : Int) = val % 2 ^ i.bits) (hp : PsrOnly s.reg.psr (f s.reg.psr a).2 flags)
      (hS : flags.lookup bitS = none) : Writes ins s c i d len val flags :=
    writes_writeTwo (he.trans (finishReg_sized hi _)) h1 h2 hd hv hp hS
  refine ⟨write _ _ _ _ rfl hneg ?_ rfl, write _ _ _ _ rfl (lowBits_emod ..) (psrOnly_nil _) rfl, ?_,
    write _ _ _ _ rfl ?_ (psrOnly_nil _) rfl⟩
  · rw [← subFlags_zero_c i a, show lowest = (subFlags i 0 a false).f from (subFlags_zero_f i a).symm]
    exact psrOnly_setCF _ _ _
  · obtain ⟨hlo, hhi⟩ := signedOf_bounds i a
    by_cases hsign : signedOf i a < 0
    · refine write _ _ _ _ rfl ?_ ?_ rfl
      · rw [if_pos hsign, hneg, neg_emod_signedOf, Int.ofNat_natAbs_of_nonpos hsign.le]
      · rw [if_pos hsign, show lowest = (subFlags i 0 a false).f from (subFlags_zero_f i a).symm]
        exact psrOnly_setF _ _
    · have hlowest : lowest = false := decide_eq_false fun h => hsign (by rw [h]; exact neg_neg_of_pos (by positivity))
      refine write _ _ _ _ rfl ?_ ?_ rfl
      · rw [if_neg hsign, lowBits_emod, ← signedOf_emod, Int.natAbs_of_nonneg (not_lt.mp hsign)]
      · rw [if_neg hsign, hlowest]
        exact psrOnly_setF _ _
  · rw [lowBits_lowBits]
    refine toNat_lowBits_of_emod ?_
    have := a.isLt
    rw [BitVec.toNat_not]
    omega

/-! ## Quick values -/

theorem signedOf_quick (n : Size) (q : BitVec 4) : signedOf n (lowBits n (quickValue q)) = q.toInt := by
  cases n <;> revert q <;> decide

/-- `ADDQ` and `ACB` add the same number (R311, R315). -/
theorem add_quick_emod (n : Size) (a : DWord) (q : BitVec 4) :
    ((lowBits n (a + quickValue q)).toNat : Int) = (a.toNat + q.toInt) % 2 ^ n.bits := by
  refine toNat_lowBits_of_emod ?_
  have hq : q.toInt = (quickValue q).toInt := (BitVec.toInt_signExtend_of_le (by decide)).symm
  rw [BitVec.toNat_add, hq, BitVec.toInt_eq_toNat_cond]
  omega

/-- `ACB`: the sum is written in place, then the branch (R315). -/
theorem exec_acb {s : State} {i : Size} {g : Gen} {o : Opnd} {d : Dest} (hi : i ≠ .undef) (ho : s.reg.resolve g = .ok o)
    (hd : asDest o = .ok d) (q : BitVec 4) (disp : Disp) :
    exec (.acb q i g disp) s = .next { s with
      reg := (((s.reg.destUpdate i d (lowBits i (s.reg.destValue i d + quickValue q))).withPsr s.reg.psr).advance
        (if lowBits i (s.reg.destValue i d + quickValue q) = 0 then 2 + g.len + disp.len else disp.value.toNat)) } := by
  refine (finishReg_sized hi _).trans ?_
  rw [ho]
  show finishReg s (asDest o >>= _) = _
  rw [hd]
  generalize hr : lowBits i (s.reg.destValue i d + quickValue q) = r
  have hpsr : (s.reg.destUpdate i d r).withPsr s.reg.psr = s.reg.destUpdate i d r := by
    rw [← destUpdate_psr s.reg i d r]; rfl
  have hgoto : (s.reg.destUpdate i d r).goto (s.reg.pc + disp.value) = (s.reg.destUpdate i d r).advance disp.value.toNat := by
    rw [RegCpu.advance, destUpdate_pc, BitVec.ofNat_toNat, BitVec.setWidth_eq]; rfl
  show finishReg s (.ok (if lowBits i (s.reg.destValue i d + quickValue q) = 0 then _ else _)) = _
  rw [hr, finishReg_ok, hpsr]
  split
  · rfl
  · exact congrArg (fun c => Host.Outcome.next { s with reg := c }) hgoto

/-- Settles O49: `ADDQ` is `AddFlags` with the quick value's pattern; `ACB` adds the same number, then tests what it wrote. -/
theorem quickArithmeticCompletes : Obligations.QuickArithmeticCompletes := by
  intro s i g o d q disp hi ho hd a len
  have ha : a.toNat < 2 ^ i.bits := destValue_lt ..
  have hq := toNat_lowBits_quick i q
  constructor
  · refine updates_rmwOne (finishReg_sized hi _) ho hd ?_ ?_ rfl
    · rw [lowBits_addFlags, addFlags_val, hq]
      simp [a]
    · have hc : (addFlags i a (lowBits i (quickValue q)) false).c = decide (2 ^ i.bits ≤ (a.toNat : Int) + q.toInt % 2 ^ i.bits) := by
        rw [addFlags_c _ ha (lowBits_lt ..), ← hq, decide_eq_decide]
        norm_cast
      have hf : (addFlags i a (lowBits i (quickValue q)) false).f = outOfRange i (signedOf i a + q.toInt) := by
        show outOfRange i (signedOf i a + signedOf i (lowBits i (quickValue q)) + 0) = _
        rw [signedOf_quick, add_zero]
      rw [← hc]
      show PsrOnly _ _ [_, (5, outOfRange i (signedOf i a + q.toInt))]
      rw [← hf]
      exact psrOnly_setCF _ _ _
  · have hupd : Updates (.acb q i g disp) s s.reg i d _ (a.toNat + q.toInt) [] :=
      updates_of _ _ rfl (exec_acb hi ho hd q disp) (by rw [lowBits_lowBits]; exact add_quick_emod ..) (psrOnly_nil _) rfl
    obtain ⟨t, he, hval, hpsr, hpc, hsp0, hsp1, hframe⟩ := hupd
    have hzero : t.destValue i d = 0 ↔ lowBits i (a + quickValue q) = 0 := by
      rw [← BitVec.toNat_inj, ← BitVec.toNat_inj, ← Int.natCast_inj, hval, ← add_quick_emod, Int.natCast_inj]
    refine ⟨t, he, hval, ?_, psr_ext hpsr, hsp0, hsp1, hframe⟩
    simp only [hzero]
    rw [hpc]
    split
    · rfl
    · rw [BitVec.ofNat_toNat, BitVec.setWidth_eq]

end Sys2Proof.Proofs
end

section
/-!
RegisterCPU shifts, divisions and bits (spec/47 to spec/49), and the processor registers (spec/46).
-/
namespace Sys2Proof.Proofs
open Sys2Proof Sys2Proof.Machine Sys2Proof.Laws

/-! ## Shifts -/

/-- A floor division by a power beyond the range of the number only tells its sign. -/
theorem ediv_two_pow_min {x : Int} {m : Nat} (hlo : -2 ^ m ≤ x) (hhi : x < 2 ^ m) (k : Nat) :
    x / 2 ^ min k m = x / 2 ^ k := by
  rcases Nat.le_total k m with h | h
  · rw [Nat.min_eq_left h]
  · rw [Nat.min_eq_right h]
    have hpow : (2 : Int) ^ m ≤ 2 ^ k := pow_le_pow_right₀ (by decide) h
    have saturates : ∀ j : Nat, (2 : Int) ^ m ≤ 2 ^ j → x / 2 ^ j = if x < 0 then -1 else 0 := by
      intro j hj
      split
      · next hneg => exact (Int.ediv_eq_iff_of_pos (by positivity)).mpr ⟨by omega, by omega⟩
      · next hpos => exact Int.ediv_eq_zero_of_lt (by omega) (by omega)
    rw [saturates m (le_refl _), saturates k hpow]

theorem lowBits_narrow (n : Size) (v : Int) : ((lowBits n (narrow n v)).toNat : Int) = v % 2 ^ n.bits := by
  rw [narrow, lowBits_lowBits, ← narrow, toNat_narrow]

theorem arithShift_emod (n : Size) (k : Int) (x : DWord) :
    ((lowBits n (arithShift n k x)).toNat : Int) =
      (if 0 ≤ k then x.toNat * 2 ^ k.toNat else signedOf n x / 2 ^ (-k).toNat : Int) % 2 ^ n.bits := by
  obtain ⟨hlo, hhi⟩ := signedOf_bounds n x
  unfold arithShift
  split
  · rw [lowBits_narrow]
  · rw [lowBits_narrow, ediv_two_pow_min hlo hhi]

theorem logicShift_emod (n : Size) (k : Int) (x : DWord) :
    ((lowBits n (logicShift n k x)).toNat : Int) =
      (if 0 ≤ k then x.toNat * 2 ^ k.toNat else x.toNat / 2 ^ (-k).toNat : Int) % 2 ^ n.bits := by
  unfold logicShift
  split
  · rw [lowBits_narrow]
  · rw [lowBits_narrow]

theorem bits_pos (n : Size) : 0 < n.bits := by cases n <;> decide

/-- Bit `t` of a rotated value: the low `m` bits come from the top (R362). -/
theorem testBit_rotate {n : Size} {k : Int} {x : DWord} (hx : x.toNat < 2 ^ n.bits) {t : Nat} (ht : t < n.bits) :
    (rotate n k x).toNat.testBit t =
      if t < (k % (n.bits : Int)).toNat then x.toNat.testBit (t + (n.bits - (k % (n.bits : Int)).toNat))
      else x.toNat.testBit (t - (k % (n.bits : Int)).toNat) := by
  have hbits : (0 : Int) < n.bits := by exact_mod_cast bits_pos n
  have hm : (k % (n.bits : Int)).toNat < n.bits := by
    have := Int.emod_lt_of_pos k hbits
    have := Int.emod_nonneg k hbits.ne'
    omega
  unfold rotate
  generalize (k % (n.bits : Int)).toNat = m at hm ⊢
  have h32 : n.bits ≤ 32 := by cases n <;> decide
  have hlow : x.toNat / 2 ^ (n.bits - m) < 2 ^ m := by
    rw [Nat.div_lt_iff_lt_mul (by positivity), ← pow_add]
    rwa [show m + (n.bits - m) = n.bits by omega]
  rw [toNat_lowBits, BitVec.toNat_ofNat, Nat.mod_mod_of_dvd _ (pow_dvd_pow 2 h32), Nat.testBit_mod_two_pow,
    decide_eq_true ht, Bool.true_and, Nat.mul_comm, Nat.testBit_two_pow_mul_add _ hlow]
  split
  · rw [Nat.testBit_div_two_pow, Nat.add_comm]
  · rfl

/-- A rotation moves bit `j` to bit `j + k` modulo the width. -/
theorem rotate_getLsbD {n : Size} (k : Int) {x : DWord} (hx : x.toNat < 2 ^ n.bits) {j : Nat} (hj : j < n.bits) :
    (rotate n k x).toNat.testBit (((j : Int) + k) % n.bits).toNat = x.getLsbD j := by
  have hbits : (0 : Int) < n.bits := by exact_mod_cast bits_pos n
  have hlo := Int.emod_nonneg k hbits.ne'
  have hhi := Int.emod_lt_of_pos k hbits
  have hj' : (j : Int) < n.bits := by exact_mod_cast hj
  rw [← Int.add_emod_emod, testBit_rotate hx (by have := Int.emod_lt_of_pos (j + k % n.bits) hbits; omega)]
  generalize hm : k % (n.bits : Int) = m at *
  by_cases hwrap : (j : Int) + m < n.bits
  · rw [Int.emod_eq_of_lt (by omega) hwrap, if_neg (by omega), show ((j : Int) + m).toNat - m.toNat = j by omega]
    rfl
  · have hsub : ((j : Int) + m) % n.bits = j + m - n.bits := by
      rw [← Int.sub_emod_right, Int.emod_eq_of_lt (by omega) (by omega)]
    rw [hsub, if_pos (by omega), show ((j : Int) + m - n.bits).toNat + (n.bits - m.toNat) = j by omega]
    rfl

/-- Settles O50: each shift is its arithmetic on the destination's old value. -/
theorem shiftsComplete : Obligations.ShiftsComplete := by
  intro s i g1 g2 o1 o2 d hi _ h1 h2 hd c k b len
  have shift (ins : Instr) (f : Int → DWord → DWord) (val : Int)
      (he : exec ins s = finishReg s (guarded (sized i) (s.reg.rmwTwo .b i g1 g2 len fun p a b => (f (countOf a) b, p))))
      (hv : ((lowBits i (f k b)).toNat : Int) = val % 2 ^ i.bits) : Updates ins s c i d len val [] :=
    updates_rmwTwo (he.trans (finishReg_sized hi _)) h1 h2 hd hv (psrOnly_nil _) rfl
  have hrot : rotate i k b = lowBits i (rotate i k b) := (lowBits_lowBits ..).symm
  refine ⟨shift _ (arithShift i) _ rfl (arithShift_emod ..), shift _ (logicShift i) _ rfl (logicShift_emod ..),
    (rotate i k b).toNat, shift _ (rotate i) _ rfl (lowBits_emod ..), by positivity, ?_, fun j hj => ?_⟩
  · rw [hrot]; exact_mod_cast lowBits_lt ..
  · exact rotate_getLsbD k (destValue_lt ..) hj

/-! ## Divisions -/

theorem natAbs_tmod_lt {v : Int} (x : Int) (hv : v ≠ 0) : (x.tmod v).natAbs < v.natAbs := by
  rw [Int.natAbs_tmod]
  exact Nat.mod_lt _ (Int.natAbs_pos.mpr hv)

theorem tmod_sign (x v : Int) : x.tmod v = 0 ∨ (x.tmod v).sign = x.sign := by
  by_cases h : v ∣ x
  · exact .inl (Int.tmod_eq_zero_of_dvd h)
  · exact .inr (by rw [Int.sign_tmod, if_neg h])

/-- The modulus is smaller than the divisor and has its sign. -/
theorem fmod_bounds {v : Int} (x : Int) (hv : v ≠ 0) :
    (x.fmod v).natAbs < v.natAbs ∧ (x.fmod v = 0 ∨ (x.fmod v).sign = v.sign) := by
  have hlo := Int.emod_nonneg x hv
  have hhi : x % v < v.natAbs := Int.emod_lt x hv
  rw [Int.fmod_eq_emod]
  split
  · next h =>
    rcases h with h | h
    · have hpos : 0 < v := by omega
      refine ⟨by omega, ?_⟩
      rcases hlo.eq_or_lt with h0 | h0
      · exact .inl (by omega)
      · exact .inr (by rw [add_zero, Int.sign_eq_one_of_pos h0, Int.sign_eq_one_of_pos hpos])
    · rw [Int.emod_eq_zero_of_dvd h]
      exact ⟨Int.natAbs_pos.mpr hv, .inl rfl⟩
  · next h =>
    obtain ⟨hneg, hdvd⟩ := not_or.mp h
    have hne : x % v ≠ 0 := fun h0 => hdvd (Int.dvd_of_emod_eq_zero h0)
    have hsum : x % v + v < 0 := by omega
    refine ⟨by omega, .inr ?_⟩
    rw [Int.sign_eq_neg_one_of_neg hsum, Int.sign_eq_neg_one_of_neg (by omega)]

/-- Settles O52: the two pairs of quotient and remainder. -/
theorem divisionsComplete : Obligations.DivisionsComplete := by
  intro s i g1 g2 o1 o2 d hi _ h1 h2 hd c v x hv
  have div (ins : Instr) (f : Int → Int → Int) (he : exec ins s = finishReg s (guarded (sized i) (s.reg.divTwo i g1 g2 f))) :
      Updates ins s c i d (3 + g1.len + g2.len) (f x v) [] := by
    refine updates_of (narrow i (f x v)) s.reg.psr (afterSource_eq ..) ?_ (lowBits_narrow ..) (psrOnly_nil _) rfl
    rw [he, finishReg_sized hi, divTwo_ok h1 h2 hd hv, finishReg_ok, ← afterSource_psr s.reg i o1,
      ← destUpdate_psr c i d (narrow i (f x v))]
    rfl
  have hrem : remOf x v = x.tmod v := (Int.tmod_def x v).symm
  have hmod : modOf x v = x.fmod v := (Int.fmod_def x v).symm
  refine ⟨_, _, _, _, div _ quoOf rfl, div _ remOf rfl, div _ modOf rfl, div _ divOf rfl, ?_⟩
  rw [hrem, hmod]
  obtain ⟨hlt, hsign⟩ := fmod_bounds x hv
  exact ⟨Int.tdiv_mul_add_tmod x v, natAbs_tmod_lt x hv, tmod_sign x v, Int.fdiv_mul_add_fmod x v, hlt, hsign⟩

/-! ## Bits -/

/-- The bit number is one of the register's or of the byte's. -/
def BitInRange : BitPlace → Prop
  | .reg _ b => b < 32
  | .mem _ b => b < 8

theorem bitInRange_bitLocate (c : RegCpu) (o : Int) (d : Dest) : BitInRange (c.bitLocate o d) := by
  have h32 := Int.emod_lt_of_pos o (b := 32) (by decide)
  have h8 := Int.emod_lt_of_pos o (b := 8) (by decide)
  cases d <;> simp only [RegCpu.bitLocate, BitInRange] <;> omega

theorem getLsbD_putBit {w : Nat} (x : BitVec w) {b : Nat} (hb : b < w) (v : Bool) (j : Nat) :
    (putBit x b v).getLsbD j = if j = b then v else x.getLsbD j := by
  by_cases hj : j < w
  · cases v <;> by_cases h : j = b <;> simp [putBit, h, hj, hb]
  · rw [BitVec.getLsbD_of_ge _ _ (by omega), BitVec.getLsbD_of_ge _ _ (by omega), if_neg (by omega)]

theorem withBit_eq (c : RegCpu) (p : BitPlace) (v : Bool) :
    c.withBit p v = { c with r := (c.withBit p v).r, mem := (c.withBit p v).mem } := by cases p <;> rfl

theorem bitAt_withBit (c : RegCpu) {p : BitPlace} (hp : BitInRange p) (v : Bool) : (c.withBit p v).bitAt p = v := by
  cases p with
  | reg k b => simp [RegCpu.withBit, RegCpu.bitAt, mergeLow, getLsbD_putBit _ hp]
  | mem a b => simp [RegCpu.withBit, RegCpu.bitAt, getLsbD_putBit _ hp]

/-- A register keeps every bit but the one written. -/
theorem withBit_reg_other (c : RegCpu) {p : BitPlace} (hp : BitInRange p) (v : Bool) {k : Fin 8} {j : Nat} (h : p ≠ .reg k j) :
    ((c.withBit p v).reg k).getLsbD j = (c.reg k).getLsbD j := by
  cases p with
  | reg r b =>
    show ((c.setReg r .d (putBit (c.reg r) b v)).reg k).getLsbD j = _
    rw [reg_setReg]
    by_cases hk : k = r
    · subst hk
      have hj : j ≠ b := fun e => h (by rw [e])
      rw [if_pos rfl, show mergeLow .d (c.reg k) (putBit (c.reg k) b v) = putBit (c.reg k) b v from rfl,
        getLsbD_putBit _ hp, if_neg hj]
    · rw [if_neg hk]
  | mem a b => rfl

/-- Memory keeps every bit but the one written. -/
theorem withBit_mem_other (c : RegCpu) {p : BitPlace} (hp : BitInRange p) (v : Bool) {x : DWord} {j : Nat} (h : p ≠ .mem x j) :
    ((c.withBit p v).byteAt x).getLsbD j = (c.byteAt x).getLsbD j := by
  cases p with
  | reg r b => rfl
  | mem a b =>
    show ((c.putByte a (putBit (c.byteAt a) b v)).byteAt x).getLsbD j = _
    rw [byteAt_putByte]
    by_cases hx : x = a
    · subst hx
      have hj : j ≠ b := fun e => h (by rw [e])
      rw [if_pos rfl, getLsbD_putBit _ hp, if_neg hj]
    · rw [if_neg hx]

/-- Settles O51: `TBIT` only looks, the others write one bit where they looked. -/
theorem bitInstructionsComplete : Obligations.BitInstructionsComplete := by
  intro s i g1 g2 o1 o2 d hi h1 h2 hd c k place len Bits
  have hplace : BitInRange place := bitInRange_bitLocate ..
  have bits (ins : Instr) (len : Nat) (f : RegCpu → BitPlace → Bool → RegCpu) (u : RegCpu) (new : Bool)
      (he : exec ins s = finishReg s (guarded (sized i) (s.reg.bitTwo i g1 g2 len f))) (hf : f c place (c.bitAt place) = u)
      (hu : u = { c with r := u.r, mem := u.mem }) (hnew : u.bitAt place = new)
      (hreg : ∀ (r : Fin 8) (j : Nat), place ≠ .reg r j → (u.reg r).getLsbD j = (c.reg r).getLsbD j)
      (hmem : ∀ (x : DWord) (j : Nat), place ≠ .mem x j → (u.byteAt x).getLsbD j = (c.byteAt x).getLsbD j) :
      Bits ins len new := by
    have hexec : exec ins s =
        .next { s with reg := (u.withPsr (setPsrBit s.reg.psr bitF (c.bitAt place))).advance len } := by
      rw [he, finishReg_sized hi, bitTwo_ok h1 h2 hd, finishReg_ok, ← hf]
    have hbit : ((u.withPsr (setPsrBit s.reg.psr bitF (c.bitAt place))).advance len).bitAt place = u.bitAt place := by
      cases place <;> rfl
    refine ⟨_, hexec, hbit.trans hnew, psrOnly_setF _ _, ?_, hreg, hmem⟩
    have hpc : c.pc = s.reg.pc := afterSource_pc ..
    rw [← hpc]
    show RegCpu.advance _ len = _
    rw [hu]
    rfl
  have write (ins : Instr) (new : Bool → Bool) (he : exec ins s = finishReg s (guarded (sized i) (s.reg.bitTwo i g1 g2 len
      fun c p old => c.withBit p (new old)))) : Bits ins len (new (c.bitAt place)) :=
    bits ins len _ _ _ he rfl (withBit_eq ..) (bitAt_withBit c hplace _) (fun _ _ => withBit_reg_other c hplace _)
      (fun _ _ => withBit_mem_other c hplace _)
  refine ⟨?_, ?_, bits _ _ _ c _ rfl rfl rfl rfl (fun _ _ _ => rfl) (fun _ _ _ => rfl), write _ (fun _ => true) rfl,
    write _ (fun _ => true) rfl, write _ (fun _ => false) rfl, write _ (fun _ => false) rfl, write _ (fun old => !old) rfl⟩
  · rintro r rfl; rfl
  · rintro ea (rfl | ⟨rfl, rfl⟩) <;> rfl

/-! ## Processor registers -/

/-- Settles O54: the value of each register, stored by the rule of a write. -/
theorem storeProcessorRegisterCompletes : Obligations.StoreProcessorRegisterCompletes := by
  intro s i g o d hi ho hd Stores
  have store (code : BitVec 4) (p : ProcReg) (v : Nat) (hp : procReg code = some p)
      (hpriv : procPrivileged p = false ∨ s.reg.user = false) (hv : (s.reg.procRead p).toNat = v) : Stores code v := by
    refine writes_dest (r := lowBits i (s.reg.procRead p)) ?_ ?_
    · rw [exec_spr hi ho, procCheck_ok hp hpriv, hd]; rfl
    · rw [lowBits_lowBits, lowBits_emod, hv]
  have half (m : Word) : (m.setWidth 32).toNat = m.toNat := by
    have := m.isLt
    rw [BitVec.toNat_setWidth]; omega
  have low : (s.reg.procRead .upsr).toNat = s.reg.psr.toNat % 256 := by
    show ((s.reg.psr.setWidth 8).setWidth 32).toNat = _
    rw [BitVec.toNat_setWidth, BitVec.toNat_setWidth]; omega
  refine ⟨store 0 .upsr _ rfl (.inl rfl) low, store 8 .fp _ rfl (.inl rfl) rfl, store 9 .sp _ rfl (.inl rfl) rfl,
    store 10 .sb _ rfl (.inl rfl) rfl, store 15 .mod _ rfl (.inl rfl) (half _), fun hu =>
    ⟨store 13 .psr _ rfl (.inr hu) (half _), store 14 .intbase _ rfl (.inr hu) rfl⟩⟩

/-- A number with its low bits replaced. -/
theorem toNat_replaceLow {w m k u : Nat} (x : BitVec w) (v : BitVec u) (hw : w = k + m) :
    (x.extractLsb' k m ++ v.setWidth k).toNat = x.toNat / 2 ^ k * 2 ^ k + v.toNat % 2 ^ k := by
  have hx : x.toNat / 2 ^ k < 2 ^ m := by
    rw [Nat.div_lt_iff_lt_mul (by positivity), ← pow_add, Nat.add_comm, ← hw]
    exact x.isLt
  rw [BitVec.toNat_append, BitVec.toNat_setWidth, BitVec.extractLsb'_toNat, Nat.shiftLeft_eq, Nat.shiftRight_eq_div_pow,
    Nat.mod_eq_of_lt hx, Nat.mul_comm, ← Nat.two_pow_add_eq_or_of_lt (Nat.mod_lt _ (by positivity))]

theorem toNat_setPsrLow (p : Word) (v : DWord) : (setPsrLow p (v.setWidth 8)).toNat = p.toNat / 256 * 256 + v.toNat % 256 := by
  have h := toNat_replaceLow p (v.setWidth 8) (k := 8) (m := 8) rfl
  rw [BitVec.setWidth_eq, BitVec.toNat_setWidth] at h
  unfold setPsrLow
  omega

/-- A write of the low bits leaves the rest of the number (R41, R316). -/
theorem toNat_mergeLow {n : Size} {v : DWord} (old : DWord) (hv : v.toNat < 2 ^ n.bits) :
    (mergeLow n old v).toNat = old.toNat / 2 ^ n.bits * 2 ^ n.bits + v.toNat := by
  have hdouble : old.toNat / 2 ^ 32 * 2 ^ 32 + v.toNat = v.toNat := by rw [Nat.div_eq_of_lt old.isLt]; omega
  cases n
  case b => exact (toNat_replaceLow old v (k := 8) (m := 24) rfl).trans (by rw [Nat.mod_eq_of_lt (show v.toNat < 2 ^ 8 from hv)]; rfl)
  case w => exact (toNat_replaceLow old v (k := 16) (m := 16) rfl).trans (by rw [Nat.mod_eq_of_lt (show v.toNat < 2 ^ 16 from hv)]; rfl)
  all_goals exact hdouble.symm

theorem toNat_putHalf {n : Size} {v : DWord} (old : Word) (hv : v.toNat < 2 ^ n.bits) :
    (putHalf n old v).toNat = if n = .b then old.toNat / 256 * 256 + v.toNat else v.toNat % 65536 := by
  cases n
  case b =>
    rw [if_pos rfl]
    show (setPsrLow old (v.setWidth 8)).toNat = _
    rw [toNat_setPsrLow, Nat.mod_eq_of_lt (show v.toNat < 256 from hv)]
  all_goals
    rw [if_neg (by decide)]
    exact BitVec.toNat_setWidth ..

/-- Settles O55: the write of each register, at the operand's size. -/
theorem loadProcessorRegisterCompletes : Obligations.LoadProcessorRegisterCompletes := by
  intro s i g o hi hwf ho v n c part Loads
  have hv : (s.reg.srcValue i o).toNat < 2 ^ i.bits := srcValue_lt hwf ho
  have hc : c = (s.reg.afterSource i o).advance (2 + g.len) := by
    rw [RegCpu.advance, afterSource_pc]
  have load (code : BitVec 4) (p : ProcReg) (hp : procReg code = some p)
      (hpriv : procPrivileged p = false ∨ s.reg.user = false) :
      Loads code (((s.reg.afterSource i o).procWrite p i (s.reg.srcValue i o)).advance (2 + g.len)) := by
    show exec _ s = _
    rw [exec_lpr hi ho, procCheck_ok hp hpriv]; rfl
  clear_value c
  subst hc
  refine ⟨⟨_, load 0 .upsr rfl (.inl rfl), toNat_setPsrLow ..⟩, ⟨_, load 8 .fp rfl (.inl rfl), toNat_mergeLow _ hv⟩,
    ⟨_, load 9 .sp rfl (.inl rfl), ?_, ?_, ?_⟩, ⟨_, load 10 .sb rfl (.inl rfl), toNat_mergeLow _ hv⟩,
    ⟨_, load 15 .mod rfl (.inl rfl), toNat_putHalf _ hv⟩, fun hu => ⟨⟨_, load 13 .psr rfl (.inr hu), toNat_putHalf _ hv⟩,
      ⟨_, load 14 .intbase rfl (.inr hu), toNat_mergeLow _ hv⟩⟩⟩
  · show ((s.reg.afterSource i o).setSp _).advance _ = _
    rw [setSp_eq]; rfl
  · show ((s.reg.afterSource i o).setSp _).sp.toNat = _
    rw [setSp_sp]
    exact toNat_mergeLow _ hv
  · exact setSp_otherSp ..

end Sys2Proof.Proofs
end

section
/-!
The register lists of `SAVE`, `RESTORE`, `ENTER` and `EXIT` (R288 to R292). The mask is turned into the list of its registers
once; what a run of pushes and a run of pops do is then an induction on that list.
-/
namespace Sys2Proof.Proofs
open Sys2Proof Sys2Proof.Machine Sys2Proof.Laws

/-! ## The registers of a mask -/

/-- The bits of a mask that are set, from bit 0 on. -/
def maskBits (m : Byte) : List (Fin 8) := (List.finRange 8).filter fun b => m.getLsbD b.val

/-- The registers pushed in the order of the list. -/
def pushRegs (c : RegCpu) (l : List (Fin 8)) : RegCpu := l.foldl (fun c b => c.push32 (c.reg b)) c

/-- The registers popped in the order of the list. -/
def popRegs (c : RegCpu) (l : List (Fin 8)) : RegCpu := l.foldl RegCpu.popReg c

theorem saveRegs_eq (c : RegCpu) (m : Byte) : c.saveRegs m = pushRegs c (maskBits m) := by
  unfold RegCpu.saveRegs pushRegs maskBits
  rw [List.foldl_filter]

theorem restoreRegs_eq (c : RegCpu) (m : Byte) : c.restoreRegs m = popRegs c ((maskBits m).map Fin.rev) := by
  unfold RegCpu.restoreRegs popRegs maskBits
  rw [List.foldl_map, List.foldl_filter]

theorem setBits_eq (m : Byte) (p : Nat → Bool) : setBits m p = ((maskBits m).filter fun b => p b.val).length := by
  have hrange : List.range 8 = (List.finRange 8).map Fin.val := by decide
  unfold setBits maskBits
  rw [hrange, List.filter_map, List.length_map, List.filter_filter]
  rfl

theorem length_maskBits (m : Byte) : (maskBits m).length = setBits m fun _ => true := by
  rw [setBits_eq, List.filter_true]

theorem length_maskBits_le (m : Byte) : (maskBits m).length ≤ 8 := List.length_filter_le _ (List.finRange 8)

/-- A set bit splits the list into the bits below it and the bits above it. -/
theorem maskBits_split {m : Byte} {b : Fin 8} (hb : m.getLsbD b.val = true) :
    maskBits m = (maskBits m).filter (fun j => j.val < b.val) ++ b :: (maskBits m).filter (fun j => b.val < j.val) := by
  have hsplit : ∀ b : Fin 8, List.finRange 8 = (List.finRange 8).filter (fun j => j.val < b.val) ++
      b :: (List.finRange 8).filter (fun j => b.val < j.val) := by decide
  have hcomm (p : Fin 8 → Bool) : (maskBits m).filter p = ((List.finRange 8).filter p).filter fun j => m.getLsbD j.val := by
    unfold maskBits
    rw [List.filter_filter, List.filter_filter]
    simp only [Bool.and_comm]
  rw [hcomm, hcomm]
  unfold maskBits
  conv_lhs => rw [hsplit b]
  rw [List.filter_append, List.filter_cons, if_pos hb]

/-- The reversed mask restores in the opposite order what the mask saves. -/
theorem maskBits_reverse (m : Byte) : (maskBits m.reverse).map Fin.rev = (maskBits m).reverse := by
  have hrev : (List.finRange 8).map Fin.rev = (List.finRange 8).reverse := by decide
  have hbit : (fun b : Fin 8 => m.reverse.getLsbD b.val) = (fun b : Fin 8 => m.getLsbD b.val) ∘ Fin.rev := by
    funext b
    have hrev' : 7 - b.val = b.rev.val := by rw [Fin.val_rev]; omega
    show m.reverse.getLsbD b.val = m.getLsbD b.rev.val
    rw [BitVec.getLsbD_reverse, BitVec.getMsbD_eq_getLsbD, decide_eq_true b.isLt, Bool.true_and, ← hrev']
  unfold maskBits
  rw [hbit, ← List.filter_map, hrev, List.filter_reverse]

/-! ## A run of pushes -/

theorem pushRegs_cons (c : RegCpu) (b : Fin 8) (l : List (Fin 8)) :
    pushRegs c (b :: l) = pushRegs (c.push32 (c.reg b)) l := rfl

theorem pushRegs_append (c : RegCpu) (l1 l2 : List (Fin 8)) : pushRegs c (l1 ++ l2) = pushRegs (pushRegs c l1) l2 := by
  unfold pushRegs; rw [List.foldl_append]

/-- Pushes change the stack pointers and memory at most. -/
theorem pushRegs_eq (c : RegCpu) (l : List (Fin 8)) :
    pushRegs c l = { c with sp0 := (pushRegs c l).sp0, sp1 := (pushRegs c l).sp1, mem := (pushRegs c l).mem } := by
  induction l generalizing c with
  | nil => rfl
  | cons b l ih =>
    have h := ih (c.push32 (c.reg b))
    rw [pushRegs_cons]
    generalize pushRegs (c.push32 (c.reg b)) l = t at h ⊢
    exact h.trans (by rw [push32_eq])

theorem pushRegs_reg (c : RegCpu) (l : List (Fin 8)) (k : Fin 8) : (pushRegs c l).reg k = c.reg k := by
  rw [pushRegs_eq]; rfl

theorem pushRegs_sp (c : RegCpu) (l : List (Fin 8)) : (pushRegs c l).sp = c.sp - BitVec.ofNat 32 (4 * l.length) := by
  induction l generalizing c with
  | nil => exact (BitVec.sub_zero _).symm
  | cons b l ih =>
    rw [pushRegs_cons, ih, push32_sp, List.length_cons]
    bv_omega

theorem pushRegs_otherSp (c : RegCpu) (l : List (Fin 8)) : (pushRegs c l).otherSp = c.otherSp := by
  induction l generalizing c with
  | nil => rfl
  | cons b l ih => rw [pushRegs_cons, ih, push32_otherSp]

/-- The bytes above `SP` are out of the pushes' reach. -/
theorem pushRegs_byteAt_above (c : RegCpu) (l : List (Fin 8)) {i : Nat} (hi : i + 4 * l.length < 2 ^ 32) :
    (pushRegs c l).byteAt (c.sp + BitVec.ofNat 32 i) = c.byteAt (c.sp + BitVec.ofNat 32 i) := by
  induction l generalizing c i with
  | nil => rfl
  | cons b l ih =>
    rw [List.length_cons] at hi
    have e : c.sp + BitVec.ofNat 32 i = (c.push32 (c.reg b)).sp + BitVec.ofNat 32 (4 + i) := by
      rw [← add_ofNat_add, push32_sp, BitVec.sub_add_cancel]
    rw [← byteAt_push32_above c (c.reg b) (i := i) (by omega), e, pushRegs_cons]
    exact ih _ (by omega)

theorem pushRegs_read32_above (c : RegCpu) (l : List (Fin 8)) {i : Nat} (hi : i + 4 + 4 * l.length ≤ 2 ^ 32) :
    (pushRegs c l).read32 (c.sp + BitVec.ofNat 32 i) = c.read32 (c.sp + BitVec.ofNat 32 i) := by
  refine read32_eq_of_bytes fun k hk => ?_
  rw [add_ofNat_add]
  exact pushRegs_byteAt_above _ _ (by omega)

/-- Only the bytes of the frame change. -/
theorem pushRegs_byteAt_outside (c : RegCpu) (l : List (Fin 8)) {x : DWord}
    (hx : outside (4 * l.length) (pushRegs c l).sp x) : (pushRegs c l).byteAt x = c.byteAt x := by
  induction l generalizing c with
  | nil => rfl
  | cons b l ih =>
    have hsp : (pushRegs c (b :: l)).sp + BitVec.ofNat 32 (4 * l.length) = (c.push32 (c.reg b)).sp := by
      rw [pushRegs_cons, pushRegs_sp, BitVec.sub_add_cancel]
    have hlow : outside (4 * l.length) (pushRegs c (b :: l)).sp x := by
      have := outside_part (j := 0) (m := 4 * l.length) hx (by rw [List.length_cons]; omega)
      rwa [BitVec.add_zero] at this
    have hhigh : outside 4 (c.push32 (c.reg b)).sp x := by
      rw [← hsp]
      exact outside_part hx (by rw [List.length_cons]; omega)
    rw [pushRegs_cons] at hlow ⊢
    rw [ih _ hlow, byteAt_push32_outside _ _ _ hhigh]

/-- The place of a pushed register: below it lie the ones pushed after it. -/
theorem pushRegs_read32 (c : RegCpu) (l1 l2 : List (Fin 8)) (b : Fin 8) (hl : 4 * l2.length + 4 ≤ 2 ^ 32) :
    (pushRegs c (l1 ++ b :: l2)).read32 ((pushRegs c (l1 ++ b :: l2)).sp + BitVec.ofNat 32 (4 * l2.length)) = c.reg b := by
  have happ : pushRegs c (l1 ++ b :: l2) = pushRegs ((pushRegs c l1).push32 ((pushRegs c l1).reg b)) l2 := by
    rw [pushRegs_append, pushRegs_cons]
  have habove := pushRegs_read32_above ((pushRegs c l1).push32 ((pushRegs c l1).reg b)) l2 (i := 0) (by omega)
  rw [happ, pushRegs_sp, BitVec.sub_add_cancel]
  rw [BitVec.add_zero, read32_push32] at habove
  rw [habove, pushRegs_reg]

/-! ## A run of pops -/

theorem popReg_eq (c : RegCpu) (k : Fin 8) :
    c.popReg k = { c with r := (c.popReg k).r, sp0 := (c.popReg k).sp0, sp1 := (c.popReg k).sp1 } := by
  apply RegCpu.ext <;> simp [RegCpu.popReg]

theorem popReg_sp (c : RegCpu) (k : Fin 8) : (c.popReg k).sp = c.sp + 4 := by
  unfold RegCpu.popReg; rw [setReg_sp, drop32_sp]; rfl

theorem popReg_otherSp (c : RegCpu) (k : Fin 8) : (c.popReg k).otherSp = c.otherSp := setSp_otherSp ..

theorem popReg_reg (c : RegCpu) (k j : Fin 8) : (c.popReg k).reg j = if j = k then c.read32 c.sp else c.reg j := by
  unfold RegCpu.popReg
  rw [reg_setReg]
  split
  · rfl
  · exact reg_congr (drop32_r c) j

theorem popRegs_cons (c : RegCpu) (k : Fin 8) (l : List (Fin 8)) : popRegs c (k :: l) = popRegs (c.popReg k) l := rfl

theorem popRegs_append (c : RegCpu) (l1 l2 : List (Fin 8)) : popRegs c (l1 ++ l2) = popRegs (popRegs c l1) l2 := by
  unfold popRegs; rw [List.foldl_append]

/-- Pops change the register file and the stack pointers at most. -/
theorem popRegs_eq (c : RegCpu) (l : List (Fin 8)) :
    popRegs c l = { c with r := (popRegs c l).r, sp0 := (popRegs c l).sp0, sp1 := (popRegs c l).sp1 } := by
  induction l generalizing c with
  | nil => rfl
  | cons k l ih =>
    have h := ih (c.popReg k)
    rw [popRegs_cons]
    generalize popRegs (c.popReg k) l = t at h ⊢
    exact h.trans (by rw [popReg_eq])

theorem popRegs_sp (c : RegCpu) (l : List (Fin 8)) : (popRegs c l).sp = c.sp + BitVec.ofNat 32 (4 * l.length) := by
  induction l generalizing c with
  | nil => exact (BitVec.add_zero _).symm
  | cons k l ih =>
    rw [popRegs_cons, ih, popReg_sp, List.length_cons]
    bv_omega

theorem popRegs_otherSp (c : RegCpu) (l : List (Fin 8)) : (popRegs c l).otherSp = c.otherSp := by
  induction l generalizing c with
  | nil => rfl
  | cons k l ih => rw [popRegs_cons, ih, popReg_otherSp]

theorem popRegs_read32 (c : RegCpu) (l : List (Fin 8)) (a : DWord) : (popRegs c l).read32 a = c.read32 a :=
  read32_congr (by rw [popRegs_eq]) a

theorem popRegs_reg_other (c : RegCpu) {l : List (Fin 8)} {k : Fin 8} (hk : k ∉ l) : (popRegs c l).reg k = c.reg k := by
  induction l generalizing c with
  | nil => rfl
  | cons j l ih =>
    obtain ⟨hj, hl⟩ := not_or.mp (List.mem_cons.not.mp hk)
    rw [popRegs_cons, ih _ hl, popReg_reg, if_neg hj]

/-- The dword that a register gets: below it lie the ones popped before it. -/
theorem popRegs_reg (c : RegCpu) (l1 : List (Fin 8)) {l2 : List (Fin 8)} {k : Fin 8} (hk : k ∉ l2) :
    (popRegs c (l1 ++ k :: l2)).reg k = c.read32 (c.sp + BitVec.ofNat 32 (4 * l1.length)) := by
  rw [popRegs_append, popRegs_cons, popRegs_reg_other _ hk, popReg_reg, if_pos rfl, popRegs_read32, popRegs_sp]

/-! ## Undoing pushes by pops -/

/-- A pop into the register that was pushed last. -/
theorem popReg_push32 {c d : RegCpu} {b : Fin 8} (hd : d = { c.push32 (c.reg b) with pc := d.pc, mem := d.mem })
    (hread : d.read32 d.sp = c.reg b) : d.popReg b = { c with pc := d.pc, mem := d.mem } := by
  have hr : d.r = c.r := (congrArg RegCpu.r hd).trans (push32_r c (c.reg b))
  have hpsr : d.psr = (c.push32 (c.reg b)).psr := (congrArg RegCpu.psr hd :)
  have hsp0 : d.sp0 = (c.push32 (c.reg b)).sp0 := (congrArg RegCpu.sp0 hd :)
  have hsp1 : d.sp1 = (c.push32 (c.reg b)).sp1 := (congrArg RegCpu.sp1 hd :)
  have hsp : d.sp = c.sp - 4#32 := (sp_congr hpsr hsp0 hsp1).trans (push32_sp ..)
  have hother : d.otherSp = c.otherSp := (otherSp_congr hpsr hsp0 hsp1).trans (push32_otherSp ..)
  have hfile : (d.popReg b).r = c.r := by
    have htop : d.drop32.r.set b (d.read32 d.sp) = c.r := by
      rw [drop32_r, hr, hread]
      exact Vector.set_getElem_self _
    exact htop
  apply eq_of_sp_otherSp
  · rw [popReg_eq, hfile, hd, push32_eq]
  · rw [popReg_sp, hsp]
    exact BitVec.sub_add_cancel ..
  · rw [popReg_otherSp, hother]; rfl

/-- Popping the reversed list over pushed registers gives back every register and both pointers. -/
theorem popRegs_pushRegs {c d : RegCpu} {l : List (Fin 8)} (hl : 4 * l.length ≤ 2 ^ 32)
    (hd : d = { pushRegs c l with pc := d.pc }) : popRegs d l.reverse = { c with pc := d.pc, mem := d.mem } := by
  induction l generalizing c with
  | nil => rw [hd]; rfl
  | cons b l ih =>
    rw [List.length_cons] at hl
    have hmem : d.mem = (pushRegs (c.push32 (c.reg b)) l).mem := by rw [hd]; rfl
    have hrest : popRegs d l.reverse = { c.push32 (c.reg b) with pc := d.pc, mem := d.mem } := ih (by omega) hd
    have happ : popRegs d (b :: l).reverse = (popRegs d l.reverse).popReg b := by
      rw [List.reverse_cons, popRegs_append]; rfl
    have habove := pushRegs_read32_above (c.push32 (c.reg b)) l (i := 0) (by omega)
    rw [BitVec.add_zero, read32_push32] at habove
    rw [happ, hrest]
    refine popReg_push32 rfl ?_
    rw [← habove]
    exact read32_congr hmem _

/-- Where a `SAVE` or an `ENTER` puts the register of a set bit. -/
theorem pushRegs_maskBits_read32 (c : RegCpu) {m : Byte} {b : Fin 8} (hb : m.getLsbD b.val = true) :
    (pushRegs c (maskBits m)).read32
      ((pushRegs c (maskBits m)).sp + BitVec.ofNat 32 (4 * setBits m fun j => b.val < j)) = c.reg b := by
  have hsplit := maskBits_split hb
  have hshort := (List.length_filter_le (fun j => decide (b.val < j.val)) (maskBits m)).trans (length_maskBits_le m)
  rw [setBits_eq]
  generalize (maskBits m).filter (fun j => decide (b.val < j.val)) = above at hsplit hshort ⊢
  rw [hsplit]
  exact pushRegs_read32 _ _ _ _ (by omega)

/-- What a `RESTORE` or an `EXIT` leaves in each register. -/
theorem popRegs_maskBits_reg (c : RegCpu) (m : Byte) (b : Fin 8) :
    (popRegs c ((maskBits m).map Fin.rev)).reg b.rev =
      if m.getLsbD b.val then c.read32 (c.sp + BitVec.ofNat 32 (4 * setBits m fun j => j < b.val)) else c.reg b.rev := by
  split
  · next hb =>
    have habove : b.rev ∉ ((maskBits m).filter fun j => b.val < j.val).map Fin.rev := by
      simp [Fin.rev_inj]
    have hsplit := maskBits_split hb
    rw [setBits_eq]
    generalize (maskBits m).filter (fun j => decide (j.val < b.val)) = below at hsplit ⊢
    rw [hsplit, List.map_append, List.map_cons, popRegs_reg _ _ habove, List.length_map]
  · next hb =>
    refine popRegs_reg_other _ fun hmem => hb ?_
    obtain ⟨j, hj, hrev⟩ := List.mem_map.mp hmem
    rw [← Fin.rev_inj.mp hrev]
    exact (List.mem_filter.mp hj).2

/-- Settles O34: the two runs, and a run of pops over a run of pushes. -/
theorem saveAndRestore : Obligations.SaveAndRestore := by
  intro s m
  have hlen := length_maskBits_le m
  have hsave : exec (.save m) s = .next { s with reg := (pushRegs s.reg (maskBits m)).advance 2 } := by
    rw [← saveRegs_eq]; rfl
  have hrestore (m : Byte) (s : State) :
      exec (.restore m) s = .next { s with reg := (popRegs s.reg ((maskBits m).map Fin.rev)).advance 2 } := by
    rw [← restoreRegs_eq]; rfl
  refine ⟨⟨_, hsave, ?_, ?_, ?_, fun b hb => pushRegs_maskBits_read32 _ hb, fun x hx => ?_, ?_⟩,
    ⟨_, hrestore m s, ?_, ?_, ?_, popRegs_maskBits_reg _ m⟩⟩
  · rw [pushRegs_eq]; rfl
  · exact pushRegs_otherSp ..
  · rw [advance_sp, pushRegs_sp, length_maskBits]
  · rw [← length_maskBits, advance_sp] at hx
    exact pushRegs_byteAt_outside _ _ hx
  · have hpc : (pushRegs s.reg (maskBits m)).pc = s.reg.pc := by rw [pushRegs_eq]
    rw [hrestore, maskBits_reverse]
    dsimp only
    rw [popRegs_pushRegs (c := s.reg) (l := maskBits m) (by omega) rfl, RegCpu.advance, advance_pc, hpc]
    dsimp only
    rw [add_ofNat_add]
    rfl
  · rw [popRegs_eq]; rfl
  · exact popRegs_otherSp ..
  · rw [advance_sp, popRegs_sp, List.length_map, length_maskBits]

/-! ## The frame of `ENTER` -/

theorem framed_eq (c : RegCpu) (size : DWord) :
    framed c size = { c with fp := c.sp - 4, sp0 := (framed c size).sp0, sp1 := (framed c size).sp1,
                             mem := (c.push32 c.fp).mem } := by
  unfold framed
  apply RegCpu.ext <;> simp [withFp]

theorem framed_sp (c : RegCpu) (size : DWord) : (framed c size).sp = c.sp - 4 - size := by
  unfold framed
  rw [setSp_sp, push32_sp]
  rfl

theorem framed_otherSp (c : RegCpu) (size : DWord) : (framed c size).otherSp = c.otherSp := by
  unfold framed
  rw [setSp_otherSp]
  exact (otherSp_congr rfl rfl rfl).trans (push32_otherSp c c.fp)

theorem framed_mem (c : RegCpu) (size : DWord) : (framed c size).mem = (c.push32 c.fp).mem := by rw [framed_eq]

theorem framed_byteAt (c : RegCpu) (size : DWord) {x : DWord} (hx : outside 4 (c.sp - 4) x) :
    (framed c size).byteAt x = c.byteAt x := by
  rw [byteAt_congr (framed_mem c size)]
  refine byteAt_push32_outside _ _ _ ?_
  rw [push32_sp]; exact hx

/-- The old `fp` stands where the new one points. -/
theorem framed_read32_fp (c : RegCpu) (size : DWord) : (framed c size).read32 (c.sp - 4) = c.fp := by
  calc (framed c size).read32 (c.sp - 4) = (c.push32 c.fp).read32 (c.sp - 4) := read32_congr (framed_mem c size) _
    _ = (c.push32 c.fp).read32 (c.push32 c.fp).sp := by rw [push32_sp]; rfl
    _ = c.fp := read32_push32 c c.fp

/-- Registers pushed below the locals leave the saved `fp` alone (R291). -/
theorem pushRegs_framed_read32_fp (c : RegCpu) {size : DWord} (hsize : size.toNat < 536870912) (m : Byte) :
    (pushRegs (framed c size) (maskBits m)).read32 (c.sp - 4) = c.fp := by
  have hlen := length_maskBits_le m
  have hfp : c.sp - 4 = (framed c size).sp + BitVec.ofNat 32 size.toNat := by
    rw [framed_sp, BitVec.ofNat_toNat, BitVec.setWidth_eq, BitVec.sub_add_cancel]
  rw [hfp, pushRegs_read32_above _ _ (by omega), ← hfp, framed_read32_fp]

/-- `EXIT` after the pops: one write of `SP` and one of `fp`. -/
theorem unframed_eq (c : RegCpu) : unframed c = { c.setSp (c.fp + 4) with fp := c.read32 c.fp } := by
  have hdrop : (c.setSp c.fp).drop32 = c.setSp (c.fp + 4) := by
    show (c.setSp c.fp).setSp ((c.setSp c.fp).sp + 4) = _
    rw [setSp_setSp, setSp_sp]
  have htop : (c.setSp c.fp).top32 = c.read32 c.fp := by
    show (c.setSp c.fp).read32 (c.setSp c.fp).sp = _
    rw [setSp_sp, read32_congr (setSp_mem ..)]
  unfold unframed withFp
  rw [hdrop, htop]

/-- Taking down the frame that `ENTER` built. -/
theorem unframed_framed {c e : RegCpu} {size : DWord} (he : e = { framed c size with pc := e.pc, mem := e.mem })
    (hfp : e.read32 (c.sp - 4) = c.fp) : unframed e = { c with pc := e.pc, mem := e.mem } := by
  rw [framed_eq] at he
  have hpsr : e.psr = (framed c size).psr := (congrArg RegCpu.psr he).trans (congrArg RegCpu.psr (framed_eq c size)).symm
  have hsp0 : e.sp0 = (framed c size).sp0 := (congrArg RegCpu.sp0 he :)
  have hsp1 : e.sp1 = (framed c size).sp1 := (congrArg RegCpu.sp1 he :)
  have hother : e.otherSp = c.otherSp := (otherSp_congr hpsr hsp0 hsp1).trans (framed_otherSp ..)
  have hptr : e.fp = c.sp - 4 := congrArg RegCpu.fp he
  have hframe : unframed e = { e.setSp c.sp with fp := c.fp } := by
    rw [unframed_eq, hptr, hfp, BitVec.sub_add_cancel]
  rw [hframe]
  apply eq_of_sp_otherSp
  · rw [setSp_eq, he]
  · exact setSp_sp ..
  · exact (setSp_otherSp ..).trans hother

/-- Settles O35: the frame around the two runs. -/
theorem enterAndExit : Obligations.EnterAndExit := by
  intro s m d
  have hlen := length_maskBits_le m
  have henter : exec (.enter m d) s =
      .next { s with reg := (pushRegs (framed s.reg d.value) (maskBits m)).advance (2 + d.len) } := by
    rw [exec_enter, saveRegs_eq, finishReg_ok]
  have hexit (m : Byte) (s : State) : exec (.exitI m) s =
      .next { s with reg := (unframed (popRegs s.reg ((maskBits m).map Fin.rev))).advance 2 } := by
    rw [exec_exitI, restoreRegs_eq, finishReg_ok]
  have hfp : ((pushRegs (framed s.reg d.value) (maskBits m)).advance (2 + d.len)).fp = s.reg.sp - 4 := by
    rw [pushRegs_eq, framed_eq]; rfl
  refine ⟨⟨_, henter, ?_, ?_, ?_, fun x hfar hlow => ?_, fun hsize => ⟨?_, fun b hb => ?_, ?_⟩⟩,
    ⟨_, hexit m s, ?_, ?_, ?_, fun b => ?_⟩⟩
  · rw [pushRegs_eq, framed_eq]; rfl
  · exact (pushRegs_otherSp ..).trans (framed_otherSp ..)
  · rw [advance_sp, pushRegs_sp, framed_sp, length_maskBits]
  · rw [← length_maskBits, advance_sp] at hlow
    exact (pushRegs_byteAt_outside _ _ hlow).trans (framed_byteAt _ _ hfar)
  · rw [hfp]
    exact pushRegs_framed_read32_fp _ hsize m
  · refine (pushRegs_maskBits_read32 _ hb).trans ?_
    rw [framed_eq]; rfl
  · have hpc : (pushRegs (framed s.reg d.value) (maskBits m)).pc = s.reg.pc := by rw [pushRegs_eq, framed_eq]
    have hdown (a : DWord) : unframed { framed s.reg d.value with pc := a, mem := (pushRegs (framed s.reg d.value) (maskBits m)).mem } =
        { s.reg with pc := a, mem := (pushRegs (framed s.reg d.value) (maskBits m)).mem } :=
      unframed_framed rfl (pushRegs_framed_read32_fp _ hsize m)
    rw [hexit, maskBits_reverse]
    dsimp only
    rw [popRegs_pushRegs (c := framed s.reg d.value) (l := maskBits m) (by omega) rfl, advance_mem, hdown, RegCpu.advance,
      advance_pc, hpc]
    dsimp only
    rw [add_ofNat_add, show 2 + d.len + 2 = 4 + d.len by omega]
  · rw [unframed_eq, popRegs_read32, setSp_eq, popRegs_eq]; rfl
  · rw [unframed_eq]
    exact (setSp_otherSp ..).trans (popRegs_otherSp ..)
  · have hptr : (popRegs s.reg ((maskBits m).map Fin.rev)).fp = s.reg.fp := by rw [popRegs_eq]
    rw [unframed_eq, hptr]
    exact setSp_sp ..
  · rw [unframed_eq]
    refine Eq.trans ?_ (popRegs_maskBits_reg s.reg m b)
    exact reg_congr (setSp_r ..) b.rev

end Sys2Proof.Proofs
end

section
/-!
The string instructions (R355 to R359). One element's step is taken apart by how it ends: with a zero count, at the stop
condition, at a difference, or with the element consumed; what each end leaves is said once for the three instructions.
-/
namespace Sys2Proof.Proofs
open Sys2Proof Sys2Proof.Machine Sys2Proof.Laws

/-! ## `psr` written twice -/

theorem psrOnly_cons_setF {p q : Word} {flags : List (Nat × Bool)} (h : PsrOnly p q flags) (f : Bool) :
    PsrOnly p (setPsrBit q bitF f) ((5, f) :: flags) := by
  intro k hk
  rw [psrBit_setPsrBit _ _ _ _ (by decide), h k hk, List.lookup_cons]
  by_cases h5 : k = 5
  · subst h5; rfl
  · rw [if_neg h5, beq_eq_false_iff_ne.mpr h5]

theorem setZNL_setZNL (p : Word) (z n l z' n' l' : Bool) : setZNL (setZNL p z n l) z' n' l' = setZNL p z' n' l' := by
  refine psr_ext fun k _ => ?_
  simp only [psrBit_setZNL]
  split_ifs <;> rfl

/-- Comparing a value with itself. -/
theorem cmpFlags_self (n : Size) (a : DWord) (p : Word) : cmpFlags n a a p = setZNL p true false false := by
  simp [cmpFlags]

/-! ## Options -/

/-- `U` and `W` by their two bits (R355). -/
theorem stopKind_eq (opts : BitVec 4) :
    stopKind opts = if opts.getLsbD 2 then (if opts.getLsbD 3 then some .untilMatch else some .whileMatch)
      else if opts.getLsbD 3 then none else some .none := by
  revert opts; decide

theorem stops_eq (c : RegCpu) (opts : BitVec 4) (i : Size) (e : DWord) :
    c.stops opts i e =
      (opts.getLsbD 2 && if opts.getLsbD 3 then decide (e = lowBits i (c.reg 4)) else decide (e ≠ lowBits i (c.reg 4))) := by
  unfold RegCpu.stops
  rw [stopKind_eq]
  cases opts.getLsbD 2 <;> cases opts.getLsbD 3 <;> simp [beq_eq_decide, bne]

theorem element_eq (c : RegCpu) (opts : BitVec 4) (i : Size) :
    c.element opts i = if opts.getLsbD 0 then BitVec.ofNat 32 (c.byteAt (c.reg 3 + c.memRead (c.reg 1) i)).toNat
      else c.memRead (c.reg 1) i := by
  unfold RegCpu.element optTranslate
  rw [BitVec.ofNat_toNat]

/-- A pointer moved by one element in the chosen direction. -/
def stepped (opts : BitVec 4) (i : Size) (p : DWord) : DWord :=
  if opts.getLsbD 1 then p - BitVec.ofNat 32 i.bytes else p + BitVec.ofNat 32 i.bytes

theorem stepPtr_reg (c : RegCpu) (k : Fin 8) (opts : BitVec 4) (i : Size) (j : Fin 8) :
    (c.stepPtr k opts i).reg j = if j = k then stepped opts i (c.reg k) else c.reg j := reg_setReg ..

/-! ## The parts of a step -/

/-- The registers after a consumed element (R356). -/
theorem stringAdvance_reg (c : RegCpu) (k : StringKind) (opts : BitVec 4) (i : Size) :
    (c.stringAdvance k opts i).reg 0 = c.reg 0 - 1 ∧ (c.stringAdvance k opts i).reg 1 = stepped opts i (c.reg 1) ∧
    (c.stringAdvance k opts i).reg 2 = (if k.movesDst then stepped opts i (c.reg 2) else c.reg 2) ∧
    ∀ j : Fin 8, 3 ≤ j.val → (c.stringAdvance k opts i).reg j = c.reg j := by
  have hreg (j : Fin 8) : (c.stringAdvance k opts i).reg j =
      if j = 0 then c.reg 0 - 1 else if j = 1 then stepped opts i (c.reg 1)
      else if j = 2 then (if k.movesDst then stepped opts i (c.reg 2) else c.reg 2) else c.reg j := by
    unfold RegCpu.stringAdvance
    cases k.movesDst <;> simp only [Bool.false_eq_true, if_false, if_true, reg_setReg, stepPtr_reg, mergeLow] <;>
      fin_cases j <;> rfl
  refine ⟨hreg 0, hreg 1, hreg 2, fun j hj => ?_⟩
  rw [hreg, if_neg (by omega), if_neg (by omega), if_neg (by omega)]

theorem stringAdvance_eq (c : RegCpu) (k : StringKind) (opts : BitVec 4) (i : Size) :
    c.stringAdvance k opts i = { c with r := (c.stringAdvance k opts i).r } := by
  unfold RegCpu.stringAdvance
  cases k.movesDst <;> rfl

theorem stringBody_mem (c : RegCpu) (k : StringKind) (i : Size) (e : DWord) :
    (c.stringBody k i e).mem = if k.stores then (c.memWrite (c.reg 2) i e).mem else c.mem := by
  unfold RegCpu.stringBody
  cases k.stores <;> cases k.compares <;> rfl

theorem stringBody_psr (c : RegCpu) (k : StringKind) (i : Size) (e : DWord) :
    (c.stringBody k i e).psr = if k.compares then cmpFlags i e (c.memRead (c.reg 2) i) c.psr else c.psr := by
  unfold RegCpu.stringBody
  cases k.stores <;> cases k.compares <;> simp

theorem stringBody_eq (c : RegCpu) (k : StringKind) (i : Size) (e : DWord) :
    c.stringBody k i e = { c with psr := (c.stringBody k i e).psr, mem := (c.stringBody k i e).mem } := by
  unfold RegCpu.stringBody
  apply RegCpu.ext <;> cases k.stores <;> cases k.compares <;> simp

theorem stringDone_eq (c : RegCpu) (k : StringKind) :
    c.stringDone k = { c with
      psr := setPsrBit (if k.compares then setZNL c.psr true false false else c.psr) bitF false
      pc := c.pc + 3 } := by
  unfold RegCpu.stringDone RegCpu.stringFinish
  cases k.compares <;> rfl

/-! ## The four ends of a step -/

section
variable {c : RegCpu} {k : StringKind} {opts : BitVec 4} {i : Size}

theorem stringStep_zero (h : c.reg 0 = 0) : c.stringStep k opts i = c.stringDone k := by
  unfold RegCpu.stringStep; rw [if_pos h]

theorem stringStep_stops (h : c.reg 0 ≠ 0) (hstop : c.stops opts i (c.element opts i) = true) :
    c.stringStep k opts i = c.stringFinish true := by
  unfold RegCpu.stringStep; rw [if_neg h]; dsimp only; rw [if_pos hstop]

theorem stringStep_differs (h : c.reg 0 ≠ 0) (hstop : c.stops opts i (c.element opts i) = false) (hk : k.compares = true)
    (hne : c.element opts i ≠ c.memRead (c.reg 2) i) :
    c.stringStep k opts i = (c.stringBody k i (c.element opts i)).stringFinish false := by
  unfold RegCpu.stringStep; rw [if_neg h]; dsimp only; rw [hstop, hk, bne_iff_ne.mpr hne]; rfl

theorem stringStep_consumes (h : c.reg 0 ≠ 0) (hstop : c.stops opts i (c.element opts i) = false)
    (heq : k.compares = true → c.element opts i = c.memRead (c.reg 2) i) :
    c.stringStep k opts i =
      let u := (c.stringBody k i (c.element opts i)).stringAdvance k opts i
      if c.reg 0 - 1 = 0 then u.stringDone k else u := by
  have hgo : (k.compares && c.element opts i != c.memRead (c.reg 2) i) = false := by
    cases hk : k.compares
    · rfl
    · rw [heq hk, bne_self_eq_false]; rfl
  have hcount : ((c.stringBody k i (c.element opts i)).stringAdvance k opts i).reg 0 = c.reg 0 - 1 := by
    rw [(stringAdvance_reg ..).1, stringBody_eq]; rfl
  unfold RegCpu.stringStep; rw [if_neg h]; dsimp only; rw [hstop, hgo, hcount]; rfl

end

/-- The state after an element was consumed, before the count is tested (R356). -/
def consumed (c : RegCpu) (k : StringKind) (opts : BitVec 4) (i : Size) : RegCpu :=
  (c.stringBody k i (c.element opts i)).stringAdvance k opts i

theorem consumed_eq (c : RegCpu) (k : StringKind) (opts : BitVec 4) (i : Size) :
    consumed c k opts i = { c with
      r := (consumed c k opts i).r
      psr := (c.stringBody k i (c.element opts i)).psr
      mem := (c.stringBody k i (c.element opts i)).mem } := by
  have hadv := stringAdvance_eq (c.stringBody k i (c.element opts i)) k opts i
  unfold consumed
  generalize (c.stringBody k i (c.element opts i)).stringAdvance k opts i = u at hadv ⊢
  exact hadv.trans (by rw [stringBody_eq])

theorem consumed_reg (c : RegCpu) (k : StringKind) (opts : BitVec 4) (i : Size) :
    (consumed c k opts i).reg 0 = c.reg 0 - 1 ∧ (consumed c k opts i).reg 1 = stepped opts i (c.reg 1) ∧
    (consumed c k opts i).reg 2 = (if k.movesDst then stepped opts i (c.reg 2) else c.reg 2) ∧
    ∀ j : Fin 8, 3 ≤ j.val → (consumed c k opts i).reg j = c.reg j := by
  have hfile (j : Fin 8) : (c.stringBody k i (c.element opts i)).reg j = c.reg j := by rw [stringBody_eq]; rfl
  have h := stringAdvance_reg (c.stringBody k i (c.element opts i)) k opts i
  simp only [hfile] at h
  exact h

/-- Settles O58: each of the three instructions ends in one of the four ways. -/
theorem stringStepsComplete : Obligations.StringStepsComplete := by
  intro s opts i hdef c step x e stop e2 zero last Ends Consumes
  have he : c.element opts i = e := element_eq ..
  have hstops : c.stops opts i (c.element opts i) = stop := by rw [he]; exact stops_eq ..
  have hexec (ins : Instr) (k : StringKind)
      (h : exec ins s = finishReg s (guarded (stringDefined opts i) (.ok (s.reg.stringStep k opts i)))) :
      exec ins s = .next { s with reg := c.stringStep k opts i } := by rw [h, hdef]; rfl
  have ends (ins : Instr) (k : StringKind) (q : Word) (flags : List (Nat × Bool))
      (h : exec ins s = finishReg s (guarded (stringDefined opts i) (.ok (s.reg.stringStep k opts i))))
      (hstep : c.stringStep k opts i = { c with psr := q, pc := c.pc + 3 }) (hq : PsrOnly c.psr q flags) : Ends ins flags :=
    ⟨_, hexec ins k h, by rw [hstep], by rw [hstep]; exact hq⟩
  refine ⟨fun hzero => ?_, fun hzero hstop => ?_, fun hzero hstop => ?_⟩
  · have hz : c.reg 0 = 0 := of_decide_eq_true hzero
    have finish (k : StringKind) := (stringStep_zero (k := k) (opts := opts) (i := i) hz).trans (stringDone_eq c k)
    exact ⟨ends _ _ _ _ rfl (finish _) (psrOnly_cons_setF (psrOnly_nil _) _),
      ends _ _ _ _ rfl (finish _) (psrOnly_cons_setF (psrOnly_nil _) _),
      ends _ _ _ _ rfl (finish _) (psrOnly_cons_setF (psrOnly_setZNL _ _ _ _) _)⟩
  · have hz : c.reg 0 ≠ 0 := of_decide_eq_false hzero
    have finish (k : StringKind) : c.stringStep k opts i = _ := stringStep_stops hz (hstops.trans hstop)
    exact ⟨ends _ _ _ _ rfl (finish _) (psrOnly_setF _ _), ends _ _ _ _ rfl (finish _) (psrOnly_setF _ _),
      ends _ _ _ _ rfl (finish _) (psrOnly_setF _ _)⟩
  · have hz : c.reg 0 ≠ 0 := of_decide_eq_false hzero
    have consumes (ins : Instr) (k : StringKind) (now : List (Nat × Bool))
        (h : exec ins s = finishReg s (guarded (stringDefined opts i) (.ok (s.reg.stringStep k opts i))))
        (heq : k.compares = true → e = e2)
        (hnow : PsrOnly c.psr (if k.compares then cmpFlags i e e2 c.psr else c.psr) now) :
        Consumes ins k.movesDst k.stores now := by
      obtain ⟨h0, h1, h2, hrest⟩ := consumed_reg c k opts i
      have hu := consumed_eq c k opts i
      have hstep : c.stringStep k opts i =
          if c.reg 0 - 1 = 0 then (consumed c k opts i).stringDone k else consumed c k opts i :=
        stringStep_consumes hz (hstops.trans hstop) fun hk => he.trans (heq hk)
      rw [he, stringBody_psr, stringBody_mem] at hu
      generalize consumed c k opts i = u at *
      have hpsr : u.psr = if k.compares then cmpFlags i e e2 c.psr else c.psr := (congrArg RegCpu.psr hu :)
      have hmem : u.mem = if k.stores then (c.memWrite (c.reg 2) i e).mem else c.mem := (congrArg RegCpu.mem hu :)
      rw [← hpsr, ← hmem] at hu
      have hflags : (if k.compares then setZNL u.psr true false false else u.psr) = u.psr := by
        split
        · next hk => rw [hpsr, if_pos hk, ← heq hk, cmpFlags_self, setZNL_setZNL]
        · rfl
      rw [← hpsr] at hnow
      refine ⟨_, hexec ins k h, ?_⟩
      rw [hstep]
      by_cases hl : c.reg 0 - 1 = 0
      · have hlast : last = true := decide_eq_true hl
        rw [if_pos hl, hlast, stringDone_eq, hflags]
        refine ⟨?_, h0, h1, h2, hrest, hmem, psrOnly_cons_setF hnow _⟩
        rw [hu]
        rfl
      · have hlast : last = false := decide_eq_false hl
        rw [if_neg hl, hlast]
        exact ⟨hu, h0, h1, h2, hrest, hmem, hnow⟩
    refine ⟨consumes (.movs opts i) ⟨true, false, true⟩ [] rfl nofun (psrOnly_nil _),
      consumes (.skps opts i) ⟨false, false, false⟩ [] rfl nofun (psrOnly_nil _),
      fun heq => consumes (.cmps opts i) ⟨false, true, true⟩ _ rfl (fun _ => heq) ?_, fun hne => ?_⟩
    · rw [← heq, if_pos rfl, cmpFlags_self]
      exact psrOnly_setZNL _ _ _ _
    · have hdiff : c.stringStep ⟨false, true, true⟩ opts i = _ :=
        stringStep_differs hz (hstops.trans hstop) rfl (by rw [he]; exact hne)
      rw [he] at hdiff
      refine ends (.cmps opts i) ⟨false, true, true⟩ _ _ rfl hdiff (psrOnly_cons_setF ?_ _)
      have hcmp := psrOnly_cmpFlags i e e2 c.psr
      rw [decide_eq_false hne] at hcmp
      exact hcmp

end Sys2Proof.Proofs
end

section
/-!
The general operands (R252 to R269), seen through `ADDR`, `MOV` and `XOR`: what each of the three leaves, byte by byte, for a
resolved operand; then the descriptor of each mode.
-/
namespace Sys2Proof.Proofs
open Sys2Proof Sys2Proof.Machine Sys2Proof.Laws

/-! ## Bytes of a value -/

theorem byte_read16 (c : RegCpu) (a : DWord) {k : Nat} (hk : k < 2) :
    (c.read16 a).extractLsb' (8 * k) 8 = c.byteAt (a + BitVec.ofNat 32 k) := by
  unfold RegCpu.read16
  interval_cases k
  · rw [BitVec.extractLsb'_append_eq_of_add_le (by decide), BitVec.extractLsb'_eq_self, BitVec.add_zero]
  · exact BitVec.extractLsb'_append_eq_left

theorem byte_read32 (c : RegCpu) (a : DWord) {k : Nat} (hk : k < 4) :
    (c.read32 a).extractLsb' (8 * k) 8 = c.byteAt (a + BitVec.ofNat 32 k) := by
  unfold RegCpu.read32
  rcases Nat.lt_or_ge k 2 with hlow | hhigh
  · rw [BitVec.extractLsb'_append_eq_of_add_le (by omega), byte_read16 _ _ hlow]
  · have haddr : a + 2 + BitVec.ofNat 32 (k - 2) = a + BitVec.ofNat 32 k := by
      rw [show (2 : DWord) = BitVec.ofNat 32 2 from rfl, add_ofNat_add, show 2 + (k - 2) = k by omega]
    rw [BitVec.extractLsb'_append_eq_of_le (by omega), show 8 * k - 16 = 8 * (k - 2) by omega, byte_read16 _ _ (by omega), haddr]

/-- Byte `k` of a value read is the byte at offset `k` (R82). -/
theorem byte_memRead (c : RegCpu) (a : DWord) (n : Size) {k : Nat} (hk : k < n.bytes) :
    (c.memRead a n).extractLsb' (8 * k) 8 = c.byteAt (a + BitVec.ofNat 32 k) := by
  cases n
  case b =>
    obtain rfl : k = 0 := Nat.lt_one_iff.mp hk
    show ((c.byteAt a).setWidth 32).extractLsb' 0 8 = _
    rw [BitVec.extractLsb'_setWidth_of_le (by decide), BitVec.extractLsb'_eq_self, BitVec.add_zero]
  case w =>
    have hk' : k < 2 := hk
    show ((c.read16 a).setWidth 32).extractLsb' (8 * k) 8 = _
    rw [BitVec.extractLsb'_setWidth_of_le (by omega), byte_read16 _ _ hk']
  all_goals exact byte_read32 _ _ hk

theorem bits_eq_bytes (n : Size) : n.bits = 8 * n.bytes := by cases n <;> rfl

/-- A byte inside the size looks at the low bits only. -/
theorem byte_congr {n : Size} {x y : DWord} (h : ∀ j < n.bits, x.getLsbD j = y.getLsbD j) {k : Nat} (hk : k < n.bytes) :
    x.extractLsb' (8 * k) 8 = y.extractLsb' (8 * k) 8 := by
  have hbits := bits_eq_bytes n
  refine BitVec.eq_of_getLsbD_eq fun j hj => ?_
  rw [BitVec.getLsbD_extractLsb', BitVec.getLsbD_extractLsb', h _ (by omega)]

theorem byte_lowBits {n : Size} (x : DWord) {k : Nat} (hk : k < n.bytes) :
    (lowBits n x).extractLsb' (8 * k) 8 = x.extractLsb' (8 * k) 8 :=
  byte_congr (fun j hj => by rw [getLsbD_lowBits, decide_eq_true hj, Bool.true_and]) hk

theorem byte_mergeLow {n : Size} (old x : DWord) {k : Nat} (hk : k < n.bytes) :
    (mergeLow n old x).extractLsb' (8 * k) 8 = x.extractLsb' (8 * k) 8 :=
  byte_congr (fun j hj => by rw [getLsbD_mergeLow, if_pos hj]) hk

theorem extractLsb'_xor_byte (x y : DWord) (k : Nat) :
    (x ^^^ y).extractLsb' (8 * k) 8 = x.extractLsb' (8 * k) 8 ^^^ y.extractLsb' (8 * k) 8 := BitVec.extractLsb'_xor ..

/-! ## The three instructions -/

section
variable {s : State} {i : Size} {g : Gen} {o : Opnd}

/-- `ADDR` into a register. -/
theorem exec_addr_reg (r : Fin 8) {ea : DWord} (ho : s.reg.resolve g = .ok o) (hea : s.reg.addrOf o = .ok ea) :
    exec (.addr .d g (.reg r)) s = .next { s with reg := (s.reg.setReg r .d ea).advance (2 + g.len) } :=
  exec_addr (g2 := .reg r) ho rfl hea rfl

/-- `MOV` into a register. -/
theorem exec_mov_reg (hi : i ≠ .undef) (r : Fin 8) (ho : s.reg.resolve g = .ok o) :
    exec (.mov i g (.reg r)) s = .next { s with
      reg := ((s.reg.afterSource i o).setReg r i (s.reg.srcValue i o)).advance (2 + g.len) } := by
  refine (finishReg_sized hi _).trans ?_
  rw [writeTwo_ok (o2 := .reg r) (d := .reg r) ho rfl rfl, finishReg_ok, ← afterSource_psr s.reg i o]
  rfl

/-- `MOV` out of a register. -/
theorem exec_reg_mov (hi : i ≠ .undef) (r : Fin 8) {d : Dest} (ho : s.reg.resolve g = .ok o) (hd : asDest o = .ok d) :
    exec (.mov i (.reg r) g) s = .next { s with
      reg := (s.reg.destWrite i d (lowBits i (s.reg.reg r))).advance (2 + g.len) } := by
  refine (finishReg_sized hi _).trans ?_
  rw [writeTwo_ok (o1 := .reg r) rfl ho hd, finishReg_ok]
  show Host.Outcome.next { s with reg := ((s.reg.destWrite i d (lowBits i (s.reg.reg r))).withPsr s.reg.psr).advance _ } = _
  rw [← destWrite_psr s.reg i d (lowBits i (s.reg.reg r))]
  rfl

/-- `XOR` of a register into the top of stack. -/
theorem exec_reg_xor_tos (hi : i ≠ .undef) (r : Fin 8) :
    exec (.xorI i (.reg r) .tos) s = .next { s with
      reg := (s.reg.memWrite s.reg.sp i (s.reg.memRead s.reg.sp i ^^^ lowBits i (s.reg.reg r))).advance 2 } := by
  refine (finishReg_sized hi _).trans ?_
  rw [rmwTwo_ok (o1 := .reg r) (o2 := .tos) (d := .tos) rfl rfl rfl, finishReg_ok]
  show Host.Outcome.next { s with reg := ((s.reg.memWrite s.reg.sp i _).withPsr s.reg.psr).advance _ } = _
  rw [← memWrite_psr s.reg s.reg.sp i (s.reg.memRead s.reg.sp i ^^^ lowBits i (s.reg.reg r))]
  rfl

end

/-- Settles O29: one argument per instruction for a resolved operand, then the descriptor of each mode. -/
theorem generalOperandsResolve : Obligations.GeneralOperandsResolve := by
  intro s i r k d d1 d2 v hi c inMem byteOf Addresses Loads Stores InMemory
  have addresses (g : Gen) (o : Opnd) (ea : DWord) (ho : c.resolve g = .ok o) (hea : c.addrOf o = .ok ea) : Addresses g ea := by
    refine ⟨_, exec_addr_reg r ho hea, rfl, ?_, fun x hx => ?_⟩
    · exact (reg_setReg ..).trans (if_pos rfl)
    · exact (reg_setReg ..).trans (if_neg hx)
  have loads (g : Gen) (o : Opnd) (val : Nat → Byte) (ho : c.resolve g = .ok o)
      (hval : ∀ b < i.bytes, byteOf (c.srcValue i o) b = val b) : Loads g val (c.afterSource i o) := by
    have hreg (x : Fin 8) : (((c.afterSource i o).setReg r i (c.srcValue i o)).advance (2 + g.len)).reg x =
        if x = r then mergeLow i (c.reg r) (c.srcValue i o) else c.reg x := by
      have hfile (x : Fin 8) : (c.afterSource i o).reg x = c.reg x := reg_congr (afterSource_r ..) x
      rw [← hfile, ← hfile]
      exact reg_setReg ..
    refine ⟨_, exec_mov_reg hi r ho, ?_, fun b hb => ?_, fun j hj => ?_, fun x hx => ?_⟩
    · rw [← afterSource_pc c i o]; rfl
    · rw [hreg, if_pos rfl]
      exact (byte_mergeLow _ _ hb).trans (hval b hb)
    · rw [hreg, if_pos rfl, getLsbD_mergeLow, if_neg (by omega)]
    · rw [hreg, if_neg hx]
  have stores (g : Gen) (o : Opnd) (d : Dest) (ea : DWord) (c1 : RegCpu) (ho : c.resolve g = .ok o) (hd : asDest o = .ok d)
      (hc1 : c1 = { c with sp0 := c1.sp0, sp1 := c1.sp1 })
      (hw : c.destWrite i d (lowBits i (c.reg r)) = c1.memWrite ea i (lowBits i (c.reg r))) : Stores g ea c1 := by
    refine ⟨_, exec_reg_mov hi r ho hd, ?_, fun b hb => ?_, fun x hx => ?_⟩
    · have hpc : c1.pc = c.pc := (congrArg RegCpu.pc hc1 :)
      rw [hw, memWrite_eq, ← hpc]
      rfl
    · rw [hw]
      exact (byteAt_memWrite_inside _ _ _ _ hb).trans (byte_lowBits _ hb)
    · rw [hw]
      exact (byteAt_memWrite_outside _ _ _ _ _ hx).trans (byteAt_congr (congrArg RegCpu.mem hc1 :) x)
  have inMemory (g : Gen) (ea : DWord) (ho : c.resolve g = .ok (.mem ea)) : InMemory g ea :=
    ⟨ho, addresses g _ ea ho rfl, loads g _ _ ho fun b hb => byte_memRead _ _ _ hb, stores g _ (.mem ea) ea c ho rfl rfl rfl⟩
  refine ⟨⟨inMemory _ _ rfl, inMemory _ _ rfl, inMemory _ _ rfl, inMemory _ _ rfl, inMemory _ _ rfl, inMemory _ _ ?_,
    inMemory _ _ rfl, inMemory _ _ rfl, inMemory _ _ rfl, inMemory _ _ rfl⟩,
    ⟨loads (.reg k) _ _ rfl fun b hb => byte_lowBits _ hb, loads (.imm v) _ _ rfl fun _ _ => rfl⟩,
    addresses .tos _ _ rfl rfl, ⟨c.dropN i, ?_, ?_, ?_, ?_⟩, ⟨c.setSp (c.sp - BitVec.ofNat 32 i.bytes), ?_, ?_, ?_, ?_⟩,
    ⟨_, exec_reg_xor_tos hi r, ?_, fun x hx => ?_, fun b hb => ?_⟩⟩
  · rw [← modAddr_eq]; rfl
  · exact setSp_eq ..
  · exact dropN_sp ..
  · exact setSp_otherSp ..
  · exact loads .tos .tos _ rfl fun b hb => byte_memRead _ _ _ hb
  · exact setSp_eq ..
  · exact setSp_sp ..
  · exact setSp_otherSp ..
  · refine stores .tos .tos .tos _ _ rfl rfl (setSp_eq ..) ?_
    rw [setSp_sp]; rfl
  · rw [memWrite_eq]; rfl
  · exact byteAt_memWrite_outside _ _ _ _ _ hx
  · refine (byteAt_memWrite_inside _ _ _ _ hb).trans ?_
    rw [extractLsb'_xor_byte, byte_memRead _ _ _ hb, byte_lowBits _ hb]

end Sys2Proof.Proofs
end
